-- ==== Sys2Proof/Word.lean ====
section
/-!
DEFINITION. The word types of LEG: a main-memory word and every register but `STS` have 32 bits
(00_scope R5), a pixel of graphics memory has 8 (00_scope R5).
-/

namespace Sys2Proof

/-- A 32-bit word: a register's contents, a main-memory word, a main-memory address (00_scope R8). -/
abbrev Word := BitVec 32

/-- An 8-bit unit of graphics memory, and a byte of the binary file (00_scope R12). -/
abbrev Byte := BitVec 8

end Sys2Proof
end

