-- ==== Sys2Proof/Config.lean ====
section
/-!
DEFINITION. What the spec leaves open: the kinds of choice of the parameters of 00_scope R6, and the free
values. A free value is an opaque constant with no body, so nothing can be proved of it: a statement that
mentions one holds whatever the value is. The parameters' values stand in Decode.lean
(`strictEncoding`) and Machine/Params.lean.
-/

namespace Sys2Proof.Config

/-- How inexact signed quotients with a negative operand are rounded (40_alu R167, `SDivRound`). -/
inductive Rounding where
  /-- toward zero, the spec's default -/
  | truncate
  /-- toward minus infinity, the spec's alternative -/
  | floor
  deriving DecidableEq, Repr

/-- What happens on operands for which the spec states no result (00_scope R6, `DivCorner`, `ShiftRange`). -/
inductive Corner where
  /-- the instruction has no step, the spec's default -/
  | refuse
  /-- the instruction goes on, its result a free value -/
  | freeResult
  deriving DecidableEq, Repr

/-- The effect of a non-jump instruction whose destination is R28 (10_state R28, `PcDest`). -/
inductive PcWrite where
  /-- the instruction has no step, the spec's default -/
  | refuse
  /-- the written value is the next instruction's address -/
  | jump
  /-- the written value is then incremented -/
  | jumpIncremented
  deriving DecidableEq, Repr

/-- `GLOD` or `BLIT` past the end of a graphics memory (43_graphics R223, R231, `BlitOverflow`). -/
inductive Overflow where
  /-- the instruction has no step, the spec's default -/
  | refuse
  /-- the address wraps -/
  | wrap
  /-- the byte is left out -/
  | clip
  deriving DecidableEq, Repr

/-- The two division functions of 40_alu R167. -/
inductive DivKind where
  | unsigned | signed
  deriving DecidableEq, Repr

/-- The four shift functions of 40_alu R151. -/
inductive ShiftKind where
  | asl | asr | lsl | lsr
  deriving DecidableEq, Repr

/-- A pixel's colour: 3 bits of red, 3 of green, 2 of blue (10_state R40). -/
structure Colour where
  red : BitVec 3
  green : BitVec 3
  blue : BitVec 2
  deriving DecidableEq, Repr

/-- Parameter `PixelLayout` (00_scope R6, 10_state R40): where in a pixel's byte each of its eight colour bits stands, the
three of red first, then green, then blue, each least significant first. No two colour bits share a place. Open, so
free; no rule of the spec and no step of the machine reads it. Log 30. -/
opaque pixelLayout : Equiv.Perm (Fin 8)

/-- The `n`-th `UNSPECIFIED(5)` of a run: what `STS.CC` holds after an arithmetic instruction
(40_alu R132). Free value, log 3. -/
opaque freeCC : Nat → BitVec 5

/-- The byte of main memory at key `4 * word address + byte number` that nothing has written
(20_memory R76, `InitMem`). Free value, log 1. -/
opaque initMain : Nat → Byte

/-- The byte of the sprite library that nothing has written (10_state R39, `InitGfx`). Free value, log 1. -/
opaque initSprite : Nat → Byte

/-- The byte of the frame buffer that nothing has written (10_state R38, `InitGfx`). Free value, log 1. -/
opaque initFrame : Nat → Byte

/-- The quotient the spec does not state, read only under `Corner.freeResult` (40_alu R167). Log 7. -/
opaque divCornerResult : DivKind → Word → Word → Word

/-- The shifted value the spec does not state, read only under `Corner.freeResult` (40_alu R151). Log 8. -/
opaque shiftCornerResult : ShiftKind → Word → Word → Word

end Sys2Proof.Config
end

