-- ==== Sys2Proof/Syntax.lean ====
section
/-!
DEFINITION. The syntax of LEG: registers, condition codes, and one constructor of `Instr` for each of the 52 rows
of spec/opcode_table.json. Bits are cut into these in Decode.lean; the machine never sees raw encodings.
-/

namespace Sys2Proof

/-- The 32 registers of 10_state R20: `R0`..`R25`, then the six with an alias, R26..R31. -/
inductive Reg where
  | gpr (n : Fin 26)
  | intlr
  | ihdlr
  | pc
  | sts
  | sp
  | lr
  deriving DecidableEq, Repr

/-- The twelve valid condition codes of 10_state R31. -/
inductive Cond where
  | ns | ne | e | gt | lt | gte | lte | of | z | nz | neg | pos
  deriving DecidableEq, Repr

/-- The instructions of LEG, in the order of spec/opcode_table.json. An operand is a register, a condition, or an
immediate field at the width its format gives it (30_encoding R94..R98). -/
inductive Instr where
  /-- `ADDU.r`, 40_alu R133 -/
  | adduReg (ra rb rc : Reg)
  /-- `ADDS.r`, 40_alu R134 -/
  | addsReg (ra rb rc : Reg)
  /-- `ADDU.i`, 40_alu R135 -/
  | adduImm (ra rb : Reg) (imm9 : BitVec 9)
  /-- `ADDS.i`, 40_alu R136 -/
  | addsImm (ra rb : Reg) (imm9 : BitVec 9)
  /-- `SUBU.r`, 40_alu R137 -/
  | subuReg (ra rb rc : Reg)
  /-- `SUBS.r`, 40_alu R138 -/
  | subsReg (ra rb rc : Reg)
  /-- `SUBU.i`, 40_alu R139 -/
  | subuImm (ra rb : Reg) (imm9 : BitVec 9)
  /-- `SUBS.i`, 40_alu R140 -/
  | subsImm (ra rb : Reg) (imm9 : BitVec 9)
  /-- `MLTU.r`, 40_alu R141 -/
  | mltuReg (ra rb rc : Reg)
  /-- `MLTS.r`, 40_alu R142 -/
  | mltsReg (ra rb rc : Reg)
  /-- `MLTU.i`, 40_alu R143 -/
  | mltuImm (ra rb : Reg) (imm9 : BitVec 9)
  /-- `MLTS.i`, 40_alu R144 -/
  | mltsImm (ra rb : Reg) (imm9 : BitVec 9)
  /-- `DIVU.r`, 40_alu R145 -/
  | divuReg (ra rb rc : Reg)
  /-- `DIVS.r`, 40_alu R146 -/
  | divsReg (ra rb rc : Reg)
  /-- `DIVU.i`, 40_alu R147 -/
  | divuImm (ra rb : Reg) (imm9 : BitVec 9)
  /-- `DIVS.i`, 40_alu R148 -/
  | divsImm (ra rb : Reg) (imm9 : BitVec 9)
  /-- `MV`, 40_alu R150 -/
  | mv (ra rb : Reg)
  /-- `CMP`, 40_alu R149 -/
  | cmp (ra rb : Reg)
  /-- `ASL.r`, 40_alu R152 -/
  | aslReg (ra rb : Reg)
  /-- `ASR.r`, 40_alu R153 -/
  | asrReg (ra rb : Reg)
  /-- `ASL.i`, 40_alu R154 -/
  | aslImm (ra : Reg) (imm14 : BitVec 14)
  /-- `ASR.i`, 40_alu R155 -/
  | asrImm (ra : Reg) (imm14 : BitVec 14)
  /-- `LSL.r`, 40_alu R156 -/
  | lslReg (ra rb : Reg)
  /-- `LSL.i`, 40_alu R157 -/
  | lslImm (ra : Reg) (imm14 : BitVec 14)
  /-- `LSR.r`, 40_alu R158 -/
  | lsrReg (ra rb : Reg)
  /-- `LSR.i`, 40_alu R159 -/
  | lsrImm (ra : Reg) (imm14 : BitVec 14)
  /-- `AND.r`, 40_alu R160 -/
  | andReg (ra rb rc : Reg)
  /-- `AND.i`, 40_alu R161 -/
  | andImm (ra rb : Reg) (imm9 : BitVec 9)
  /-- `OR.r`, 40_alu R162 -/
  | orReg (ra rb rc : Reg)
  /-- `OR.i`, 40_alu R163 -/
  | orImm (ra rb : Reg) (imm9 : BitVec 9)
  /-- `XOR.r`, 40_alu R164 -/
  | xorReg (ra rb rc : Reg)
  /-- `XOR.i`, 40_alu R165 -/
  | xorImm (ra rb : Reg) (imm9 : BitVec 9)
  /-- `NOT`, 40_alu R166 -/
  | notReg (ra rb : Reg)
  /-- `LDR.r`, 41_memory_instructions R182 -/
  | ldrReg (ra rb : Reg)
  /-- `LDR.i`, 41_memory_instructions R183 -/
  | ldrImm (ra : Reg) (imm17 : BitVec 17)
  /-- `STR.r`, 41_memory_instructions R184 -/
  | strReg (ra rb : Reg)
  /-- `STR.i`, 41_memory_instructions R185 -/
  | strImm (ra : Reg) (imm17 : BitVec 17)
  /-- `PUSH`, 41_memory_instructions R186 -/
  | push (ra : Reg)
  /-- `POP`, 41_memory_instructions R187 -/
  | pop (ra : Reg)
  /-- `HALT`, 42_control R201 -/
  | halt
  /-- `JMP.r`, 42_control R202 -/
  | jmpReg (c : Cond) (ra : Reg)
  /-- `JMP.i`, 42_control R203 -/
  | jmpImm (c : Cond) (imm22 : BitVec 22)
  /-- `JMPS.r`, 42_control R204 -/
  | jmpsReg (c : Cond) (ra : Reg)
  /-- `JMPS.i`, 42_control R205 -/
  | jmpsImm (c : Cond) (imm22 : BitVec 22)
  /-- `JMPI`, 42_control R206 -/
  | jmpi (c : Cond)
  /-- `GLOD.r`, 43_graphics R224 -/
  | glodReg (ra rb rc : Reg)
  /-- `GLOD.i`, 43_graphics R225 -/
  | glodImm (dest12 : BitVec 12) (src10 : BitVec 10) (len12 : BitVec 12)
  /-- `BLITMEM`, 43_graphics R226 -/
  | blitmem (ra rb : Reg)
  /-- `BLITDIMS.r`, 43_graphics R227 -/
  | blitdimsReg (ra rb : Reg)
  /-- `BLITDIMS.i`, 43_graphics R228 -/
  | blitdimsImm (w7 h7 : BitVec 7)
  /-- `BLIT.r`, 43_graphics R229 -/
  | blitReg (ra rb : Reg)
  /-- `BLIT.i`, 43_graphics R230 -/
  | blitImm (bop4 : BitVec 4) (mask8 : BitVec 8)
  deriving DecidableEq, Repr

end Sys2Proof
end

