-- ==== Sys2Proof/WellFormed.lean ====
section
/-!
DEFINITION. Which instructions have an encoding. Register numbers, condition codes and field widths are held by the
types of the operands, so one check is left: `GLOD` immediate, whose operand fields need 34 bits, has no layout
(30_encoding R97, 43_graphics R225).
-/

namespace Sys2Proof

/-- The instruction has a 32-bit encoding: every one but `GLOD` immediate (43_graphics R225). -/
def Instr.wellFormed : Instr → Bool
  | .glodImm _ _ _ => false
  | .adduReg _ _ _ | .addsReg _ _ _ | .adduImm _ _ _ | .addsImm _ _ _ | .subuReg _ _ _ | .subsReg _ _ _
  | .subuImm _ _ _ | .subsImm _ _ _ | .mltuReg _ _ _ | .mltsReg _ _ _ | .mltuImm _ _ _ | .mltsImm _ _ _
  | .divuReg _ _ _ | .divsReg _ _ _ | .divuImm _ _ _ | .divsImm _ _ _ | .mv _ _ | .cmp _ _ | .aslReg _ _
  | .asrReg _ _ | .aslImm _ _ | .asrImm _ _ | .lslReg _ _ | .lslImm _ _ | .lsrReg _ _ | .lsrImm _ _
  | .andReg _ _ _ | .andImm _ _ _ | .orReg _ _ _ | .orImm _ _ _ | .xorReg _ _ _ | .xorImm _ _ _ | .notReg _ _
  | .ldrReg _ _ | .ldrImm _ _ | .strReg _ _ | .strImm _ _ | .push _ | .pop _ | .halt | .jmpReg _ _
  | .jmpImm _ _ | .jmpsReg _ _ | .jmpsImm _ _ | .jmpi _ | .glodReg _ _ _ | .blitmem _ _ | .blitdimsReg _ _
  | .blitdimsImm _ _ | .blitReg _ _ | .blitImm _ _ => true

end Sys2Proof
end

