-- ==== Sys2Proof/Decode.lean ====
section
/-!
DEFINITION. Decoding a fetched word, total on all 2^32 words and refusing by name (30_encoding R104, R110), and after it the
encoder, written from the same formats (30_encoding R94..R97). The field layouts of the Control and Graphics types are the
spec's own repairs (log 13).
-/

namespace Sys2Proof

/-- Parameter `StrictEncoding` (00_scope R6, 30_encoding R93, R111): a non-null condition on a non-jump and a
non-zero "Not Used" bit are refused (true, the spec's default) or ignored (false). DESIGN CHOICE, log 10. -/
def strictEncoding : Bool := true

/-- Why a word decodes to no instruction (30_encoding R104). -/
inductive DecodeRefusal where
  /-- an operation the tables leave out, or, under `strictEncoding`, a bit that must be zero and is not -/
  | reservedEncoding
  /-- type 11, operation 2: `GLOD` immediate has no layout -/
  | unencodableGlodImmediate
  /-- a jump whose condition field is 6 or 13..31 -/
  | invalidConditionCode
  deriving DecidableEq, Repr

/-- The 5-bit number of a register (10_state R20). -/
def Reg.num : Reg → BitVec 5
  | .gpr n => BitVec.ofNat 5 n
  | .intlr => 26#5
  | .ihdlr => 27#5
  | .pc => 28#5
  | .sts => 29#5
  | .sp => 30#5
  | .lr => 31#5

/-- The register of a 5-bit number; all 32 are valid (30_encoding R99). -/
def Reg.ofNum (n : BitVec 5) : Reg :=
  if h : n.toNat < 26 then .gpr ⟨n.toNat, h⟩
  else match n.toNat with
    | 26 => .intlr
    | 27 => .ihdlr
    | 28 => .pc
    | 29 => .sts
    | 30 => .sp
    | _ => .lr

/-- The code of a condition (10_state R31). -/
def Cond.code : Cond → BitVec 5
  | .ns => 0#5
  | .ne => 1#5
  | .e => 2#5
  | .gt => 3#5
  | .lt => 4#5
  | .gte => 5#5
  | .lte => 7#5
  | .of => 8#5
  | .z => 9#5
  | .nz => 10#5
  | .neg => 11#5
  | .pos => 12#5

/-- The condition of a code; 6 and 13..31 are no valid codes (10_state R31). -/
def Cond.ofCode (c : BitVec 5) : Option Cond :=
  match c.toNat with
  | 0 => some .ns
  | 1 => some .ne
  | 2 => some .e
  | 3 => some .gt
  | 4 => some .lt
  | 5 => some .gte
  | 7 => some .lte
  | 8 => some .of
  | 9 => some .z
  | 10 => some .nz
  | 11 => some .neg
  | 12 => some .pos
  | _ => none

/-- The field of `len` bits whose lowest bit is bit `lo` (00_scope R7). -/
def field (w : Word) (lo len : Nat) : BitVec len := w.extractLsb' lo len

/-- The register named by the 5-bit field at bit `lo` (30_encoding R99). -/
def regField (w : Word) (lo : Nat) : Reg := Reg.ofNum (field w lo 5)

/-- The `cond` field, bits 4..0 of every instruction (30_encoding R91). -/
def condField (w : Word) : BitVec 5 := field w 0 5

/-- A jump with the condition of `w`, refused where that is no valid code (30_encoding R104). -/
def jumpWith (w : Word) (jump : Cond → Instr) : Except DecodeRefusal Instr :=
  match Cond.ofCode (condField w) with
  | some c => .ok (jump c)
  | none => .error .invalidConditionCode

/-- The Control type, `op3` in bits 9..7, formats `C-0`, `C-R`, `C-I` (30_encoding R96, R102). -/
def decodeControl (w : Word) : Except DecodeRefusal Instr :=
  match (field w 7 3).toNat with
  | 0 => .ok .halt
  | 1 => jumpWith w fun c => .jmpReg c (regField w 10)
  | 2 => jumpWith w fun c => .jmpImm c (field w 10 22)
  | 3 => jumpWith w fun c => .jmpsReg c (regField w 10)
  | 4 => jumpWith w fun c => .jmpsImm c (field w 10 22)
  | 5 => jumpWith w fun c => .jmpi c
  | _ => .error .reservedEncoding

/-- The ALU type, `op6` in bits 12..7, formats `A-RRR`, `A-RRI`, `A-RR`, `A-RI14` (30_encoding R94, R100). -/
def decodeAlu (w : Word) : Except DecodeRefusal Instr :=
  match (field w 7 6).toNat with
  | 0 => .ok (.adduReg (regField w 13) (regField w 18) (regField w 23))
  | 1 => .ok (.addsReg (regField w 13) (regField w 18) (regField w 23))
  | 2 => .ok (.adduImm (regField w 13) (regField w 18) (field w 23 9))
  | 3 => .ok (.addsImm (regField w 13) (regField w 18) (field w 23 9))
  | 4 => .ok (.subuReg (regField w 13) (regField w 18) (regField w 23))
  | 5 => .ok (.subsReg (regField w 13) (regField w 18) (regField w 23))
  | 6 => .ok (.subuImm (regField w 13) (regField w 18) (field w 23 9))
  | 7 => .ok (.subsImm (regField w 13) (regField w 18) (field w 23 9))
  | 8 => .ok (.mltuReg (regField w 13) (regField w 18) (regField w 23))
  | 9 => .ok (.mltsReg (regField w 13) (regField w 18) (regField w 23))
  | 10 => .ok (.mltuImm (regField w 13) (regField w 18) (field w 23 9))
  | 11 => .ok (.mltsImm (regField w 13) (regField w 18) (field w 23 9))
  | 12 => .ok (.divuReg (regField w 13) (regField w 18) (regField w 23))
  | 13 => .ok (.divsReg (regField w 13) (regField w 18) (regField w 23))
  | 14 => .ok (.divuImm (regField w 13) (regField w 18) (field w 23 9))
  | 15 => .ok (.divsImm (regField w 13) (regField w 18) (field w 23 9))
  | 16 => .ok (.mv (regField w 13) (regField w 18))
  | 17 => .ok (.cmp (regField w 13) (regField w 18))
  | 18 => .ok (.aslReg (regField w 13) (regField w 18))
  | 19 => .ok (.asrReg (regField w 13) (regField w 18))
  | 20 => .ok (.aslImm (regField w 13) (field w 18 14))
  | 21 => .ok (.asrImm (regField w 13) (field w 18 14))
  | 22 => .ok (.lslReg (regField w 13) (regField w 18))
  | 23 => .ok (.lslImm (regField w 13) (field w 18 14))
  | 24 => .ok (.lsrReg (regField w 13) (regField w 18))
  | 25 => .ok (.lsrImm (regField w 13) (field w 18 14))
  | 26 => .ok (.andReg (regField w 13) (regField w 18) (regField w 23))
  | 27 => .ok (.andImm (regField w 13) (regField w 18) (field w 23 9))
  | 28 => .ok (.orReg (regField w 13) (regField w 18) (regField w 23))
  | 29 => .ok (.orImm (regField w 13) (regField w 18) (field w 23 9))
  | 30 => .ok (.xorReg (regField w 13) (regField w 18) (regField w 23))
  | 31 => .ok (.xorImm (regField w 13) (regField w 18) (field w 23 9))
  | 32 => .ok (.notReg (regField w 13) (regField w 18))
  | _ => .error .reservedEncoding

/-- The Memory type, `op3` in bits 9..7, formats `M-RR`, `M-RI`, `M-R` (30_encoding R95, R101). -/
def decodeMemory (w : Word) : Except DecodeRefusal Instr :=
  match (field w 7 3).toNat with
  | 0 => .ok (.ldrReg (regField w 10) (regField w 15))
  | 1 => .ok (.ldrImm (regField w 10) (field w 15 17))
  | 2 => .ok (.strReg (regField w 10) (regField w 15))
  | 3 => .ok (.strImm (regField w 10) (field w 15 17))
  | 4 => .ok (.push (regField w 10))
  | 5 => .ok (.pop (regField w 10))
  | _ => .error .reservedEncoding

/-- The Graphics type, `op3` in bits 9..7, formats `G-RRR`, `G-RR`, `G-DIM`, `G-BLT` (30_encoding R97, R103). -/
def decodeGraphics (w : Word) : Except DecodeRefusal Instr :=
  match (field w 7 3).toNat with
  | 1 => .ok (.glodReg (regField w 10) (regField w 15) (regField w 20))
  | 2 => .error .unencodableGlodImmediate
  | 3 => .ok (.blitmem (regField w 10) (regField w 15))
  | 4 => .ok (.blitdimsReg (regField w 10) (regField w 15))
  | 5 => .ok (.blitdimsImm (field w 10 7) (field w 17 7))
  | 6 => .ok (.blitReg (regField w 10) (regField w 15))
  | 7 => .ok (.blitImm (field w 10 4) (field w 14 8))
  | _ => .error .reservedEncoding

/-- The row a word's type and operation select, with its fields cut (30_encoding R92, R104). -/
def selectRow (w : Word) : Except DecodeRefusal Instr :=
  match (field w 5 2).toNat with
  | 0 => decodeControl w
  | 1 => decodeAlu w
  | 2 => decodeMemory w
  | _ => decodeGraphics w

/-- The "Not Used" bits of an instruction's format (30_encoding R94..R97). -/
def Instr.unusedBits : Instr → Word
  | .adduReg _ _ _ | .addsReg _ _ _ | .subuReg _ _ _ | .subsReg _ _ _ | .mltuReg _ _ _ | .mltsReg _ _ _
  | .divuReg _ _ _ | .divsReg _ _ _ | .andReg _ _ _ | .orReg _ _ _ | .xorReg _ _ _ => 0xF0000000
  | .adduImm _ _ _ | .addsImm _ _ _ | .subuImm _ _ _ | .subsImm _ _ _ | .mltuImm _ _ _ | .mltsImm _ _ _
  | .divuImm _ _ _ | .divsImm _ _ _ | .andImm _ _ _ | .orImm _ _ _ | .xorImm _ _ _ | .aslImm _ _
  | .asrImm _ _ | .lslImm _ _ | .lsrImm _ _ | .ldrImm _ _ | .strImm _ _ | .jmpImm _ _ | .jmpsImm _ _ => 0x00000000
  | .mv _ _ | .cmp _ _ | .aslReg _ _ | .asrReg _ _ | .lslReg _ _ | .lsrReg _ _ | .notReg _ _ => 0xFF800000
  | .ldrReg _ _ | .strReg _ _ => 0xFFF00000
  | .push _ | .pop _ => 0xFFFF8000
  | .halt | .jmpi _ => 0xFFFFFC00
  | .jmpReg _ _ | .jmpsReg _ _ => 0xFFFF8000
  | .glodReg _ _ _ => 0xFE000000
  | .glodImm _ _ _ => 0x00000000
  | .blitmem _ _ | .blitdimsReg _ _ | .blitReg _ _ => 0xFFF00000
  | .blitdimsImm _ _ => 0xFF000000
  | .blitImm _ _ => 0xFFC00000

/-- The condition field holds the jump's condition: Control operations 1..5 and no other (30_encoding R93). -/
def Instr.usesCond : Instr → Bool
  | .jmpReg _ _ | .jmpImm _ _ | .jmpsReg _ _ | .jmpsImm _ _ | .jmpi _ => true
  | .adduReg _ _ _ | .addsReg _ _ _ | .adduImm _ _ _ | .addsImm _ _ _ | .subuReg _ _ _ | .subsReg _ _ _
  | .subuImm _ _ _ | .subsImm _ _ _ | .mltuReg _ _ _ | .mltsReg _ _ _ | .mltuImm _ _ _ | .mltsImm _ _ _
  | .divuReg _ _ _ | .divsReg _ _ _ | .divuImm _ _ _ | .divsImm _ _ _ | .mv _ _ | .cmp _ _ | .aslReg _ _
  | .asrReg _ _ | .aslImm _ _ | .asrImm _ _ | .lslReg _ _ | .lslImm _ _ | .lsrReg _ _ | .lsrImm _ _
  | .andReg _ _ _ | .andImm _ _ _ | .orReg _ _ _ | .orImm _ _ _ | .xorReg _ _ _ | .xorImm _ _ _
  | .notReg _ _ | .ldrReg _ _ | .ldrImm _ _ | .strReg _ _ | .strImm _ _ | .push _ | .pop _ | .halt
  | .glodReg _ _ _ | .glodImm _ _ _ | .blitmem _ _ | .blitdimsReg _ _ | .blitdimsImm _ _ | .blitReg _ _
  | .blitImm _ _ => false

/-- The bits an assembler writes as zero: the unused ones, and the condition field of a non-jump (30_encoding R93, R111). -/
def Instr.zeroBits (i : Instr) : Word :=
  i.unusedBits ||| (if i.usesCond then 0#32 else 0x1F#32)

/-- Decoding, total on every word (30_encoding R104). -/
def decode (w : Word) : Except DecodeRefusal Instr :=
  match selectRow w with
  | .error r => .error r
  | .ok i => if strictEncoding && w &&& i.zeroBits != 0#32 then .error .reservedEncoding else .ok i

/-- The instruction the decoder reads from the `nbits` low bits of `w`; every row of the table has 32 bits
(30_encoding R90), and a shorter one is filled with zeros. -/
def decodeTableWord (nbits w : Nat) : Option Instr :=
  match decode (BitVec.ofNat 32 (w % 2 ^ nbits)) with
  | .ok i => some i
  | .error _ => none

/-! The encoder: each format is its fields side by side, the most significant first, so that the widths sum to 32. -/

/-- Format `A-RRR` (30_encoding R94). -/
def formatARRR (op6 : BitVec 6) (ra rb rc : Reg) : Word :=
  0#4 ++ rc.num ++ rb.num ++ ra.num ++ op6 ++ 0b01#2 ++ 0#5

/-- Format `A-RRI` (30_encoding R94). -/
def formatARRI (op6 : BitVec 6) (ra rb : Reg) (imm9 : BitVec 9) : Word :=
  imm9 ++ rb.num ++ ra.num ++ op6 ++ 0b01#2 ++ 0#5

/-- Format `A-RR` (30_encoding R94). -/
def formatARR (op6 : BitVec 6) (ra rb : Reg) : Word :=
  0#9 ++ rb.num ++ ra.num ++ op6 ++ 0b01#2 ++ 0#5

/-- Format `A-RI14` (30_encoding R94). -/
def formatARI14 (op6 : BitVec 6) (ra : Reg) (imm14 : BitVec 14) : Word :=
  imm14 ++ ra.num ++ op6 ++ 0b01#2 ++ 0#5

/-- Format `M-RR` (30_encoding R95). -/
def formatMRR (op3 : BitVec 3) (ra rb : Reg) : Word :=
  0#12 ++ rb.num ++ ra.num ++ op3 ++ 0b10#2 ++ 0#5

/-- Format `M-RI` (30_encoding R95). -/
def formatMRI (op3 : BitVec 3) (ra : Reg) (imm17 : BitVec 17) : Word :=
  imm17 ++ ra.num ++ op3 ++ 0b10#2 ++ 0#5

/-- Format `M-R` (30_encoding R95). -/
def formatMR (op3 : BitVec 3) (ra : Reg) : Word :=
  0#17 ++ ra.num ++ op3 ++ 0b10#2 ++ 0#5

/-- Format `C-0` (30_encoding R96). -/
def formatC0 (op3 : BitVec 3) (c : Cond) : Word :=
  0#22 ++ op3 ++ 0b00#2 ++ c.code

/-- Format `C-R` (30_encoding R96). -/
def formatCR (op3 : BitVec 3) (c : Cond) (ra : Reg) : Word :=
  0#17 ++ ra.num ++ op3 ++ 0b00#2 ++ c.code

/-- Format `C-I` (30_encoding R96). -/
def formatCI (op3 : BitVec 3) (c : Cond) (imm22 : BitVec 22) : Word :=
  imm22 ++ op3 ++ 0b00#2 ++ c.code

/-- Format `G-RRR` (30_encoding R97). -/
def formatGRRR (op3 : BitVec 3) (ra rb rc : Reg) : Word :=
  0#7 ++ rc.num ++ rb.num ++ ra.num ++ op3 ++ 0b11#2 ++ 0#5

/-- Format `G-RR` (30_encoding R97). -/
def formatGRR (op3 : BitVec 3) (ra rb : Reg) : Word :=
  0#12 ++ rb.num ++ ra.num ++ op3 ++ 0b11#2 ++ 0#5

/-- Format `G-DIM` (30_encoding R97). -/
def formatGDIM (op3 : BitVec 3) (w7 h7 : BitVec 7) : Word :=
  0#8 ++ h7 ++ w7 ++ op3 ++ 0b11#2 ++ 0#5

/-- Format `G-BLT` (30_encoding R97). -/
def formatGBLT (op3 : BitVec 3) (bop4 : BitVec 4) (mask8 : BitVec 8) : Word :=
  0#10 ++ mask8 ++ bop4 ++ op3 ++ 0b11#2 ++ 0#5

/-- The word of an instruction (30_encoding R100..R103); none for `GLOD` immediate, which has none. -/
def encode : Instr → Option Word
  | .adduReg ra rb rc => some (formatARRR 0#6 ra rb rc)
  | .addsReg ra rb rc => some (formatARRR 1#6 ra rb rc)
  | .adduImm ra rb imm9 => some (formatARRI 2#6 ra rb imm9)
  | .addsImm ra rb imm9 => some (formatARRI 3#6 ra rb imm9)
  | .subuReg ra rb rc => some (formatARRR 4#6 ra rb rc)
  | .subsReg ra rb rc => some (formatARRR 5#6 ra rb rc)
  | .subuImm ra rb imm9 => some (formatARRI 6#6 ra rb imm9)
  | .subsImm ra rb imm9 => some (formatARRI 7#6 ra rb imm9)
  | .mltuReg ra rb rc => some (formatARRR 8#6 ra rb rc)
  | .mltsReg ra rb rc => some (formatARRR 9#6 ra rb rc)
  | .mltuImm ra rb imm9 => some (formatARRI 10#6 ra rb imm9)
  | .mltsImm ra rb imm9 => some (formatARRI 11#6 ra rb imm9)
  | .divuReg ra rb rc => some (formatARRR 12#6 ra rb rc)
  | .divsReg ra rb rc => some (formatARRR 13#6 ra rb rc)
  | .divuImm ra rb imm9 => some (formatARRI 14#6 ra rb imm9)
  | .divsImm ra rb imm9 => some (formatARRI 15#6 ra rb imm9)
  | .mv ra rb => some (formatARR 16#6 ra rb)
  | .cmp ra rb => some (formatARR 17#6 ra rb)
  | .aslReg ra rb => some (formatARR 18#6 ra rb)
  | .asrReg ra rb => some (formatARR 19#6 ra rb)
  | .aslImm ra imm14 => some (formatARI14 20#6 ra imm14)
  | .asrImm ra imm14 => some (formatARI14 21#6 ra imm14)
  | .lslReg ra rb => some (formatARR 22#6 ra rb)
  | .lslImm ra imm14 => some (formatARI14 23#6 ra imm14)
  | .lsrReg ra rb => some (formatARR 24#6 ra rb)
  | .lsrImm ra imm14 => some (formatARI14 25#6 ra imm14)
  | .andReg ra rb rc => some (formatARRR 26#6 ra rb rc)
  | .andImm ra rb imm9 => some (formatARRI 27#6 ra rb imm9)
  | .orReg ra rb rc => some (formatARRR 28#6 ra rb rc)
  | .orImm ra rb imm9 => some (formatARRI 29#6 ra rb imm9)
  | .xorReg ra rb rc => some (formatARRR 30#6 ra rb rc)
  | .xorImm ra rb imm9 => some (formatARRI 31#6 ra rb imm9)
  | .notReg ra rb => some (formatARR 32#6 ra rb)
  | .ldrReg ra rb => some (formatMRR 0#3 ra rb)
  | .ldrImm ra imm17 => some (formatMRI 1#3 ra imm17)
  | .strReg ra rb => some (formatMRR 2#3 ra rb)
  | .strImm ra imm17 => some (formatMRI 3#3 ra imm17)
  | .push ra => some (formatMR 4#3 ra)
  | .pop ra => some (formatMR 5#3 ra)
  | .halt => some (formatC0 0#3 .ns)
  | .jmpReg c ra => some (formatCR 1#3 c ra)
  | .jmpImm c imm22 => some (formatCI 2#3 c imm22)
  | .jmpsReg c ra => some (formatCR 3#3 c ra)
  | .jmpsImm c imm22 => some (formatCI 4#3 c imm22)
  | .jmpi c => some (formatC0 5#3 c)
  | .glodReg ra rb rc => some (formatGRRR 1#3 ra rb rc)
  | .glodImm _ _ _ => none
  | .blitmem ra rb => some (formatGRR 3#3 ra rb)
  | .blitdimsReg ra rb => some (formatGRR 4#3 ra rb)
  | .blitdimsImm w7 h7 => some (formatGDIM 5#3 w7 h7)
  | .blitReg ra rb => some (formatGRR 6#3 ra rb)
  | .blitImm bop4 mask8 => some (formatGBLT 7#3 bop4 mask8)

end Sys2Proof
end

