-- ==== Sys2Proof/Machine/Params.lean ====
section
/-!
DEFINITION. The parameters of 00_scope R6 that the machine reads, at the spec's defaults. `StrictEncoding` stands in
Decode.lean; `CondMatch` is `condRelation` in Flags.lean; `ArithStatus`, `InitMem`, `InitGfx` and `PixelLayout` are the free
values of Config.lean; `MemWords` is `mainSize` in Memory.lean, the whole space.
-/

namespace Sys2Proof.Machine

/-- `CMP` orders its operands as signed (40_alu R149). DESIGN CHOICE: the spec's default, unsigned. Log 5. -/
def cmpSigned : Bool := false

/-- Rounding of inexact signed quotients (40_alu R167). DESIGN CHOICE: the spec's default. Log 6. -/
def sDivRound : Config.Rounding := .truncate

/-- Division by zero and `0x80000000 / -1` (40_alu R167). DESIGN CHOICE: the spec's default. Log 7. -/
def divCorner : Config.Corner := .refuse

/-- Shift amounts outside 0..31 (40_alu R151). DESIGN CHOICE: the spec's default. Log 8. -/
def shiftRange : Config.Corner := .refuse

/-- A non-jump with destination R28 (10_state R28). DESIGN CHOICE: the spec's default. Log 9. -/
def pcDest : Config.PcWrite := .refuse

/-- Graphics addresses past the end (43_graphics R223, R231). DESIGN CHOICE: the spec's default. Log 12. -/
def blitOverflow : Config.Overflow := .refuse

end Sys2Proof.Machine
end

