-- ==== Sys2Proof/Machine/Flags.lean ====
section
/-!
DEFINITION. The status register `STS` and its condition codes (10_state R30..R34, 40_alu R132, R149).
-/

namespace Sys2Proof.Machine

/-- `STS.CC`, bits 4..0 (10_state R30). -/
def stsCC (sts : BitVec 6) : BitVec 5 := sts.extractLsb' 0 5

/-- `STS.IF`, bit 5 (10_state R30). -/
def stsIF (sts : BitVec 6) : Bool := sts.getLsbD 5

/-- A status register of an interrupt flag and a condition code (10_state R30). -/
def mkSts (flag : Bool) (cc : BitVec 5) : BitVec 6 := BitVec.ofBool flag ++ cc

/-- Whether a condition matches a valid status code (10_state R33). Parameter `CondMatch` at the spec's
default. DESIGN CHOICE, log 11. -/
def condRelation (c s : Cond) : Bool :=
  c == .ns || s == .ns || c == s
  || (c == .ne && (s == .gt || s == .lt))
  || (c == .gte && (s == .gt || s == .e))
  || (c == .lte && (s == .lt || s == .e))

/-- `CondMatch(c, s)` of 10_state R33: the null condition is tested first, then an invalid status code gives
none, the refusal. -/
def condMatch (c : Cond) (s : BitVec 5) : Option Bool :=
  if c = .ns then some true else (Cond.ofCode s).map (condRelation c)

/-- `less(a, b)` of 40_alu R149. -/
def less (a b : Word) : Bool := if cmpSigned then a.slt b else a.ult b

/-- The code `CMP` stores (40_alu R149). -/
def compareCode (a b : Word) : Cond :=
  if a = b then .e else if less a b then .lt else .gt

end Sys2Proof.Machine
end

