-- ==== Sys2Proof/Machine/State.lean ====
section
/-!
DEFINITION. The machine's state as plain data, its reasons to stop, the state after reset, and one named update per
field. Everything the spec gives the machine is here (INVENTORY.md, "State"); `freeDraws` and `keyTape` are
the model's own.
-/

namespace Sys2Proof.Machine

/-- A memory: the bytes that hold a known value, by rising address (Machine/Memory.lean). -/
abbrev Memory := List Host.Cell

/-- The seven keys, the only interrupt sources (60_exceptions R252). -/
inductive Key where
  | upArrow | downArrow | leftArrow | rightArrow | enter | escape | space
  deriving DecidableEq, Repr

/-- Reasons the machine itself stops: none, the hardware has no trap or fault of any kind (60_exceptions R250). No
constructor, so nothing raises one (safe). -/
inductive Fault where
  deriving DecidableEq, Repr

/-- Cases to which the spec gives no meaning, `REFUSE(reason)` of 00_scope R9. -/
inductive Refusal where
  /-- raised by an arm of `exec` whose instruction has no meaning yet; no arm does (safe) -/
  | notModelled (mnemonic : String)
  /-- raised by decoding: U1..U4, U6, U7 of 93_implementation_defined (safe) -/
  | reservedEncoding
  /-- raised by decoding type 11, operation 2: U5, 43_graphics R225 (safe) -/
  | unencodableGlodImmediate
  /-- raised by decoding a jump with an invalid condition field, and by a jump with a non-null condition that
  meets an invalid code in `STS.CC`: U8, 10_state R33 (safe) -/
  | invalidConditionCode
  /-- raised by the four divides: U9, 40_alu R167 (safe) -/
  | divisionByZero
  /-- raised by the signed divides on `0x80000000 / 0xFFFFFFFF`: U10, 40_alu R167 (safe) -/
  | signedDivisionOverflow
  /-- raised by the eight shifts on an amount of 32 or more: U11, 40_alu R151 (safe) -/
  | shiftAmountOutOfRange
  /-- raised by an ALU instruction, a load or `POP` with destination R28: U12, 10_state R28 (safe) -/
  | pcAsDestination
  /-- raised by `GLOD` and `BLIT` past the end of a graphics memory: U13, 43_graphics R223, R231 (safe) -/
  | graphicsAddressOverflow
  /-- raised by the loader on a file whose length is no multiple of 4 bytes: U14, 20_memory R75 (safe) -/
  | fileLengthNotMultipleOfFour
  /-- raised by the loader on a file of more words than main memory has; log 29 (safe) -/
  | fileLongerThanMemory
  deriving DecidableEq, Repr

/-- The state of the machine (10_state R20..R44). -/
structure State where
  /-- `R0`..`R25` (10_state R21) -/
  gpr : Vector Word 26
  /-- R26, the interrupt link register (10_state R22) -/
  intlr : Word
  /-- R27, the interrupt handler address (10_state R23) -/
  ihdlr : Word
  /-- R28: inside an instruction its own address, between two the address of the next (10_state R24) -/
  pc : Word
  /-- R29: `STS.CC` in bits 4..0, `STS.IF` in bit 5 (10_state R30) -/
  sts : BitVec 6
  /-- R30 (10_state R26) -/
  sp : Word
  /-- R31 (10_state R29) -/
  lr : Word
  /-- the program is done running (10_state R41) -/
  halted : Bool
  /-- `BL.src`, an address of the sprite library (10_state R36) -/
  blSrc : BitVec 12
  /-- `BL.dst`, an address of the frame buffer (10_state R36) -/
  blDst : BitVec 16
  /-- `BL.w` (10_state R36) -/
  blW : BitVec 7
  /-- `BL.h` (10_state R36) -/
  blH : BitVec 7
  /-- main memory (10_state R37), byte `k` of word `a` at address `4a+k` (log 2) -/
  main : Memory
  /-- the sprite library (10_state R39) -/
  sprite : Memory
  /-- the frame buffer (10_state R38) -/
  frame : Memory
  /-- model only: how many `UNSPECIFIED(5)` values have been drawn (40_alu R132, log 3) -/
  freeDraws : Nat
  /-- model only: what the keyboard does before each coming instruction (60_exceptions R256, log 15) -/
  keyTape : List (Option Key)
  deriving DecidableEq, Repr

/-- The machine right after reset, before a program is loaded (10_state R44). The Blitter registers' zeros are a
DESIGN CHOICE (log 4), the two model fields' values too (log 3, log 15). -/
def State.reset : State where
  gpr := Vector.replicate 26 0#32
  intlr := 0#32
  ihdlr := 0xFFFFFFFF#32
  pc := 0#32
  sts := 0b000000#6
  sp := 0#32
  lr := 0#32
  halted := false
  blSrc := 0#12
  blDst := 0#16
  blW := 0#7
  blH := 0#7
  main := []
  sprite := []
  frame := []
  freeDraws := 0
  keyTape := []

namespace State

/-! One update per field; Laws/State.lean says what each leaves alone. -/

/-- Put `v` in general register `n`. -/
def withGpr (s : State) (n : Fin 26) (v : Word) : State := { s with gpr := s.gpr.set n v }
def withIntlr (s : State) (v : Word) : State := { s with intlr := v }
def withIhdlr (s : State) (v : Word) : State := { s with ihdlr := v }
def withPc (s : State) (v : Word) : State := { s with pc := v }
def withSts (s : State) (v : BitVec 6) : State := { s with sts := v }
def withSp (s : State) (v : Word) : State := { s with sp := v }
def withLr (s : State) (v : Word) : State := { s with lr := v }
def withHalted (s : State) (b : Bool) : State := { s with halted := b }
def withBlitMem (s : State) (src : BitVec 12) (dst : BitVec 16) : State := { s with blSrc := src, blDst := dst }
def withBlitDims (s : State) (w h : BitVec 7) : State := { s with blW := w, blH := h }
def withMain (s : State) (m : Memory) : State := { s with main := m }
def withSprite (s : State) (m : Memory) : State := { s with sprite := m }
def withFrame (s : State) (m : Memory) : State := { s with frame := m }
def withFreeDraws (s : State) (n : Nat) : State := { s with freeDraws := n }
def withKeyTape (s : State) (t : List (Option Key)) : State := { s with keyTape := t }

end State

end Sys2Proof.Machine
end

