-- ==== Sys2Proof/Machine/Memory.lean ====
section
/-!
DEFINITION. The memory's operations. A memory lists the bytes that something has written or loaded, by strictly rising
address; an unlisted byte holds no known value and reads as a free one (20_memory R76, 10_state R38, R39, log 1). No
listed entry can equal "no known value", so the strictly rising order alone is the canonical form: memories that
hold the same known bytes are the same list.
-/

namespace Sys2Proof.Machine

/-- The byte listed at an address; none where nothing has written. -/
def Memory.find : Memory → Nat → Option Byte
  | [], _ => none
  | (b, v) :: m, a => if b = a then some v else Memory.find m a

/-- The byte at an address, given what unlisted addresses read as. -/
def Memory.read (unlisted : Nat → Byte) (m : Memory) (a : Nat) : Byte :=
  (Memory.find m a).getD (unlisted a)

/-- Write one byte, keeping the addresses strictly rising. -/
def Memory.put : Memory → Nat → Byte → Memory
  | [], a, v => [(a, v)]
  | (b, w) :: m, a, v =>
    if a < b then (a, v) :: (b, w) :: m
    else if a = b then (a, v) :: m
    else (b, w) :: Memory.put m a v

/-- The addresses rise strictly. -/
def Memory.rising : Memory → Bool
  | [] => true
  | [_] => true
  | x :: y :: m => decide (x.1 < y.1) && Memory.rising (y :: m)

/-- The canonical form of a memory of `size` bytes. -/
def Memory.wf (size : Nat) (m : Memory) : Bool :=
  Memory.rising m && m.all (fun c => decide (c.1 < size))

/-- Bytes of main memory: four for each of the 2^32 words (10_state R37). -/
abbrev mainSize : Nat := 4 * 2 ^ 32

/-- Bytes of the sprite library (10_state R39). -/
abbrev spriteSize : Nat := 2 ^ 12

/-- Bytes of the frame buffer (10_state R38). -/
abbrev frameSize : Nat := 2 ^ 16

/-- Byte `k` of a word, byte 0 the least significant (20_memory R63). -/
def wordByte (w : Word) (k : Nat) : Byte := w.extractLsb' (8 * k) 8

/-- Four bytes as a word, `b0` the least significant (20_memory R63, R75). -/
def wordOfBytes (b0 b1 b2 b3 : Byte) : Word := b3 ++ b2 ++ b1 ++ b0

/-- `MemRead(addr, 1)` of 00_scope R9. -/
def readWord (m : Memory) (addr : Word) : Word :=
  let b := fun k => Memory.read Config.initMain m (4 * addr.toNat + k)
  wordOfBytes (b 0) (b 1) (b 2) (b 3)

/-- `MemWrite(addr, 1, v)` of 00_scope R9. -/
def writeWord (m : Memory) (addr : Word) (v : Word) : Memory :=
  let a := 4 * addr.toNat
  (((m.put a (wordByte v 0)).put (a + 1) (wordByte v 1)).put (a + 2) (wordByte v 2)).put (a + 3) (wordByte v 3)

namespace State

/-- One byte of main memory, by the address `4 * word address + byte number` (log 2). -/
def mainByte (s : State) (a : Nat) : Byte := Memory.read Config.initMain s.main a

/-- The word of main memory at a word address (00_scope R9, `MemRead`). -/
def memRead (s : State) (addr : Word) : Word := readWord s.main addr

/-- Store a word of main memory (00_scope R9, `MemWrite`). -/
def memWrite (s : State) (addr : Word) (v : Word) : State := s.withMain (writeWord s.main addr v)

/-- `SprRead(a)` of 00_scope R9. -/
def spriteByte (s : State) (a : Nat) : Byte := Memory.read Config.initSprite s.sprite a

/-- `FbRead(a)` of 00_scope R9. -/
def frameByte (s : State) (a : Nat) : Byte := Memory.read Config.initFrame s.frame a

end State

end Sys2Proof.Machine
end

