-- ==== Sys2Proof/Machine/Ops.lean ====
section
/-!
DEFINITION. The named operations over registers and status, the end of an instruction, and the machine's one
exception: a key interrupt's entry, and the return from it.
-/

namespace Sys2Proof.Machine

/-- What a meaning answers. -/
abbrev Result := Host.Outcome State Fault Refusal

/-- `x[i]` (10_state R27): R28 reads the instruction's own address, R29 the zero-extended status. -/
def readReg (s : State) : Reg → Word
  | .gpr n => s.gpr[n]
  | .intlr => s.intlr
  | .ihdlr => s.ihdlr
  | .pc => s.pc
  | .sts => s.sts.setWidth 32
  | .sp => s.sp
  | .lr => s.lr

/-- `x[i] <- v` (10_state R28): R29 takes the low six bits. R28 as the destination of an instruction is `writeBack`'s
case; here it is the program counter itself. -/
def writeReg (s : State) (r : Reg) (v : Word) : State :=
  match r with
  | .gpr n => s.withGpr n v
  | .intlr => s.withIntlr v
  | .ihdlr => s.withIhdlr v
  | .pc => s.withPc v
  | .sts => s.withSts (v.setWidth 6)
  | .sp => s.withSp v
  | .lr => s.withLr v

namespace State

/-- `STS.CC` (10_state R30). -/
def cc (s : State) : BitVec 5 := stsCC s.sts

/-- `STS.IF` (10_state R32). -/
def iflag (s : State) : Bool := stsIF s.sts

/-- `STS.CC <- c`, the flag unchanged. -/
def setCC (s : State) (c : BitVec 5) : State := s.withSts (mkSts (stsIF s.sts) c)

/-- `STS.IF <- b`, the condition code unchanged. -/
def setIF (s : State) (b : Bool) : State := s.withSts (mkSts b (stsCC s.sts))

/-- `STS.CC <- UNSPECIFIED(5)` (40_alu R132): the next free value is drawn. Log 3. -/
def drawCC (s : State) : State := (s.setCC (Config.freeCC s.freeDraws)).withFreeDraws (s.freeDraws + 1)

/-- `pc <- pc + 1`, modulo 2^32 (10_state R24). -/
def advance (s : State) : State := s.withPc (s.pc + 1)

end State

/-- The end of an instruction with a destination: `x[ra] <- v`, then what else it does (`after`), then
`pc <- pc + 1`; R28 as destination is refused (10_state R28, 40_alu R130). Log 9 for the other settings of `pcDest`. -/
def writeBack (s : State) (ra : Reg) (v : Word) (after : State → State) : Result :=
  match ra with
  | .pc =>
    match pcDest with
    | .refuse => .refused .pcAsDestination
    | .jump => .next ((after s).withPc v)
    | .jumpIncremented => .next ((after s).withPc (v + 1))
  | r => .next (after (writeReg s r v)).advance

/-- The end of an instruction whose result may have no meaning: the refusal comes before the write (00_scope R10). -/
def writeBackOr (s : State) (ra : Reg) (v : Except Refusal Word) (after : State → State) : Result :=
  match v with
  | .ok v => writeBack s ra v after
  | .error r => .refused r

/-! The interrupt. -/

/-- The 4-bit code of a key (60_exceptions R252). -/
def Key.code : Key → BitVec 4
  | .upArrow => 0#4
  | .downArrow => 1#4
  | .leftArrow => 2#4
  | .rightArrow => 3#4
  | .enter => 4#4
  | .escape => 5#4
  | .space => 6#4

/-- The address interrupt entry stores the code at (20_memory R62). -/
abbrev codeAddress : Word := 0xFFFFFFFF#32

/-- The value of `IHDLR` that means no handler is set (10_state R23). -/
abbrev noHandler : Word := 0xFFFFFFFF#32

/-- A key event is taken now: not halted, `STS.IF = 0`, a handler set (60_exceptions R254). -/
def State.takesKey (s : State) : Bool := !s.halted && !s.iflag && s.ihdlr != noHandler

/-- Interrupt entry, TAKING THE EXCEPTION, in the source's order (60_exceptions R255). -/
def enterInterrupt (k : Key) (s : State) : State :=
  let s₁ := s.setIF true
  let s₂ := s₁.memWrite codeAddress (k.code.setWidth 32)
  let s₃ := s₂.withIntlr s₂.pc
  s₃.withPc s₃.ihdlr

/-- A key event between two instructions: taken, or dropped with no effect (60_exceptions R254). -/
def keyEvent (k : Key) (s : State) : State := if s.takesKey then enterInterrupt k s else s

/-- The return from an interrupt: `STS.IF <- 0; pc <- INTLR` (42_control R206, 60_exceptions R258). -/
def returnFromInterrupt (s : State) : State := (s.setIF false).withPc s.intlr

end Sys2Proof.Machine
end

