-- ==== Sys2Proof/Machine/Operands.lean ====
section
/-!
DEFINITION. The operand forms: sign-extended immediates (30_encoding R98), the addressing modes of the Memory
instructions (41_memory_instructions R181), the jump targets (42_control R207) and the low bits the Graphics
instructions take of a register (30_encoding R99).
-/

namespace Sys2Proof.Machine

/-- `sext_32(v)` of 00_scope R9. -/
def sext32 (v : BitVec n) : Word := v.signExtend 32

/-- Register-direct effective address: the whole register (41_memory_instructions R181). -/
def eaReg (s : State) (rb : Reg) : Word := readReg s rb

/-- Immediate effective address: `pc + 1 + sext_32(imm17)` modulo 2^32 (41_memory_instructions R181). -/
def eaImm (s : State) (imm17 : BitVec 17) : Word := s.pc + 1 + sext32 imm17

/-- Immediate jump target: relative to the jump itself (42_control R207). -/
def jumpTarget (s : State) (imm22 : BitVec 22) : Word := s.pc + sext32 imm22

/-- Source address of `GLOD` immediate: relative to the `GLOD` itself (43_graphics R225). -/
def glodSource (s : State) (src10 : BitVec 10) : Word := s.pc + sext32 src10

/-- The `n` least significant bits of a register (30_encoding R99). -/
def lowBits (n : Nat) (s : State) (r : Reg) : BitVec n := (readReg s r).setWidth n

end Sys2Proof.Machine
end

