-- ==== Sys2Proof/Machine/Arith.lean ====
section
/-!
DEFINITION. The sixteen arithmetic instructions, ALU operations 0..15 (40_alu R130..R148, R167). Each writes its result,
leaves `STS.CC` a free value and advances `pc`.
-/

namespace Sys2Proof.Machine

/-- A division whose result the spec does not state: refused by the name given, or a free value (`divCorner`). -/
def divUnstated (why : Refusal) (kind : Config.DivKind) (a b : Word) : Except Refusal Word :=
  match divCorner with
  | .refuse => .error why
  | .freeResult => .ok (Config.divCornerResult kind a b)

/-- `udiv(a, b)` of 40_alu R167. -/
def udiv (a b : Word) : Except Refusal Word :=
  if b.toNat = 0 then divUnstated .divisionByZero .unsigned a b
  else .ok (BitVec.ofNat 32 (a.toNat / b.toNat))

/-- The signed quotient rounded by `sDivRound`; an exact one and one of non-negative operands are the same under
both (40_alu R167). -/
def roundedQuotient (a b : Int) : Int :=
  match sDivRound with
  | .truncate => a.tdiv b
  | .floor => a.fdiv b

/-- `sdiv(a, b)` of 40_alu R167. -/
def sdiv (a b : Word) : Except Refusal Word :=
  if b.toInt = 0 then divUnstated .divisionByZero .signed a b
  else if a.toInt = -2 ^ 31 ∧ b.toInt = -1 then divUnstated .signedDivisionOverflow .signed a b
  else .ok (BitVec.ofInt 32 (roundedQuotient a.toInt b.toInt))

/-- The end of ALU operations 0..15: the result written, `STS.CC` left unspecified, `pc` advanced (40_alu R132). -/
def arith (s : State) (ra : Reg) (v : Except Refusal Word) : Result := writeBackOr s ra v State.drawCC

/-- `ADDU.r` (40_alu R133). -/
def execAdduReg (ra rb rc : Reg) (s : State) : Result :=
  arith s ra (.ok (readReg s rb + readReg s rc))

/-- `ADDS.r` (40_alu R134). -/
def execAddsReg (ra rb rc : Reg) (s : State) : Result :=
  arith s ra (.ok (readReg s rb + readReg s rc))

/-- `ADDU.i` (40_alu R135). -/
def execAdduImm (ra rb : Reg) (imm9 : BitVec 9) (s : State) : Result :=
  arith s ra (.ok (readReg s rb + sext32 imm9))

/-- `ADDS.i` (40_alu R136). -/
def execAddsImm (ra rb : Reg) (imm9 : BitVec 9) (s : State) : Result :=
  arith s ra (.ok (readReg s rb + sext32 imm9))

/-- `SUBU.r` (40_alu R137). -/
def execSubuReg (ra rb rc : Reg) (s : State) : Result :=
  arith s ra (.ok (readReg s rb - readReg s rc))

/-- `SUBS.r` (40_alu R138). -/
def execSubsReg (ra rb rc : Reg) (s : State) : Result :=
  arith s ra (.ok (readReg s rb - readReg s rc))

/-- `SUBU.i` (40_alu R139). -/
def execSubuImm (ra rb : Reg) (imm9 : BitVec 9) (s : State) : Result :=
  arith s ra (.ok (readReg s rb - sext32 imm9))

/-- `SUBS.i` (40_alu R140). -/
def execSubsImm (ra rb : Reg) (imm9 : BitVec 9) (s : State) : Result :=
  arith s ra (.ok (readReg s rb - sext32 imm9))

/-- `MLTU.r` (40_alu R141). -/
def execMltuReg (ra rb rc : Reg) (s : State) : Result :=
  arith s ra (.ok (readReg s rb * readReg s rc))

/-- `MLTS.r` (40_alu R142). -/
def execMltsReg (ra rb rc : Reg) (s : State) : Result :=
  arith s ra (.ok (readReg s rb * readReg s rc))

/-- `MLTU.i` (40_alu R143). -/
def execMltuImm (ra rb : Reg) (imm9 : BitVec 9) (s : State) : Result :=
  arith s ra (.ok (readReg s rb * sext32 imm9))

/-- `MLTS.i` (40_alu R144). -/
def execMltsImm (ra rb : Reg) (imm9 : BitVec 9) (s : State) : Result :=
  arith s ra (.ok (readReg s rb * sext32 imm9))

/-- `DIVU.r` (40_alu R145). -/
def execDivuReg (ra rb rc : Reg) (s : State) : Result :=
  arith s ra (udiv (readReg s rb) (readReg s rc))

/-- `DIVS.r` (40_alu R146). -/
def execDivsReg (ra rb rc : Reg) (s : State) : Result :=
  arith s ra (sdiv (readReg s rb) (readReg s rc))

/-- `DIVU.i` (40_alu R147). -/
def execDivuImm (ra rb : Reg) (imm9 : BitVec 9) (s : State) : Result :=
  arith s ra (udiv (readReg s rb) (sext32 imm9))

/-- `DIVS.i` (40_alu R148). -/
def execDivsImm (ra rb : Reg) (imm9 : BitVec 9) (s : State) : Result :=
  arith s ra (sdiv (readReg s rb) (sext32 imm9))

end Sys2Proof.Machine
end

