-- ==== Sys2Proof/Machine/Control.lean ====
section
/-!
DEFINITION. The six Control instructions (42_control R200..R208).
-/

namespace Sys2Proof.Machine

/-- `HALT` (42_control R201): `pc` keeps the address of the `HALT` (log 26). -/
def execHalt (s : State) : Result := .next (s.withHalted true)

/-- A conditional jump: not taken it only advances `pc`; a status code that is no valid code is refused, unless the
condition is null (42_control R200, 10_state R33). -/
def jump (c : Cond) (s : State) (taken : State → State) : Result :=
  match condMatch c s.cc with
  | some true => .next (taken s)
  | some false => .next s.advance
  | none => .refused .invalidConditionCode

/-- `LR <- pc + 1` (42_control R208). -/
def linkReturn (s : State) : State := s.withLr (s.pc + 1)

/-- `JMP.r` (42_control R202). -/
def execJmpReg (c : Cond) (ra : Reg) (s : State) : Result := jump c s fun s => s.withPc (readReg s ra)

/-- `JMP.i` (42_control R203). -/
def execJmpImm (c : Cond) (imm22 : BitVec 22) (s : State) : Result :=
  jump c s fun s => s.withPc (jumpTarget s imm22)

/-- `JMPS.r` (42_control R204): the target is read after `LR` is written. -/
def execJmpsReg (c : Cond) (ra : Reg) (s : State) : Result :=
  jump c s fun s => (linkReturn s).withPc (readReg (linkReturn s) ra)

/-- `JMPS.i` (42_control R205). -/
def execJmpsImm (c : Cond) (imm22 : BitVec 22) (s : State) : Result :=
  jump c s fun s => (linkReturn s).withPc (jumpTarget s imm22)

/-- `JMPI` (42_control R206): with the interrupt flag clear it only advances `pc`. -/
def execJmpi (c : Cond) (s : State) : Result :=
  jump c s fun s => if s.iflag then returnFromInterrupt s else s.advance

end Sys2Proof.Machine
end

