-- ==== Sys2Proof/Machine/Graphics.lean ====
section
/-!
DEFINITION. The seven Graphics instructions and the Blitter (43_graphics R220..R235), and what the screen shows
(10_state R40, 60_exceptions R264). A refused transfer has no step, so none of its writes stands.
-/

namespace Sys2Proof.Machine

/-- Where byte `a` of a graphics memory of `size` bytes goes: past the end it is refused, or wraps, or is left out
(`blitOverflow`; 20_memory R66). -/
def graphicsAddress (size a : Nat) : Except Refusal (Option Nat) :=
  if a < size then .ok (some a)
  else match blitOverflow with
    | .refuse => .error .graphicsAddressOverflow
    | .wrap => .ok (some (a % size))
    | .clip => .ok none

/-! Load Sprite. -/

/-- Byte `k` of the sprite that starts at main-memory word `src`: least significant byte first (43_graphics R223). -/
def sourceByte (s : State) (src : Word) (k : Nat) : Byte :=
  wordByte (s.memRead (src + BitVec.ofNat 32 (k / 4))) (k % 4)

/-- `SpriteLoad(dest, src, len)` of 43_graphics R223: the sprite library after bytes `0 .. len - 1`. -/
def spriteLoad (s : State) (dest : Nat) (src : Word) : Nat → Except Refusal Memory
  | 0 => .ok s.sprite
  | k + 1 =>
    match spriteLoad s dest src k with
    | .error r => .error r
    | .ok m =>
      match graphicsAddress spriteSize (dest + k) with
      | .error r => .error r
      | .ok none => .ok m
      | .ok (some a) => .ok (m.put a (sourceByte s src k))

/-- The end of `GLOD`: the loaded sprite library, `pc` advanced (43_graphics R220). -/
def glod (s : State) (dest : BitVec 12) (src : Word) (len : BitVec 12) : Result :=
  match spriteLoad s dest.toNat src len.toNat with
  | .ok m => .next (s.withSprite m).advance
  | .error r => .refused r

/-- `GLOD.r` (43_graphics R224). -/
def execGlodReg (ra rb rc : Reg) (s : State) : Result :=
  glod s (lowBits 12 s ra) (readReg s rb) (lowBits 12 s rc)

/-- `GLOD.i` (43_graphics R225), its meaning at assembly level; no word decodes to it (log 14). -/
def execGlodImm (dest12 : BitVec 12) (src10 : BitVec 10) (len12 : BitVec 12) (s : State) : Result :=
  glod s dest12 (glodSource s src10) len12

/-! The Blitter's registers. -/

/-- `BLITMEM` (43_graphics R226): source first, destination second. -/
def execBlitmem (ra rb : Reg) (s : State) : Result :=
  .next (s.withBlitMem (lowBits 12 s ra) (lowBits 16 s rb)).advance

/-- `BLITDIMS.r` (43_graphics R227). -/
def execBlitdimsReg (ra rb : Reg) (s : State) : Result :=
  .next (s.withBlitDims (lowBits 7 s ra) (lowBits 7 s rb)).advance

/-- `BLITDIMS.i` (43_graphics R228). -/
def execBlitdimsImm (w7 h7 : BitVec 7) (s : State) : Result := .next (s.withBlitDims w7 h7).advance

/-! Bit block transfer. -/

/-- The Blitter's sixteen operations, row by row (43_graphics R222). -/
def blitOp (bop : BitVec 4) (src dest : Byte) : Byte :=
  match bop.toNat with
  | 0 => 0x00#8
  | 1 => src &&& dest
  | 2 => src &&& ~~~ dest
  | 3 => src
  | 4 => ~~~ src &&& dest
  | 5 => dest
  | 6 => src ^^^ dest
  | 7 => src ||| dest
  | 8 => ~~~ src &&& ~~~ dest
  | 9 => ~~~ src ^^^ dest
  | 10 => ~~~ dest
  | 11 => src ||| ~~~ dest
  | 12 => ~~~ src
  | 13 => ~~~ src ||| dest
  | 14 => ~~~ src ||| ~~~ dest
  | _ => 0xFF#8

/-- Sprite-library address of a pixel: sprite rows are `BL.w` bytes long (43_graphics R231). -/
def blitSource (s : State) (row col : Nat) : Nat := s.blSrc.toNat + row * s.blW.toNat + col

/-- Frame-buffer address of a pixel: its rows are 256 bytes long (43_graphics R231). -/
def blitDest (s : State) (row col : Nat) : Nat := s.blDst.toNat + row * 256 + col

/-- One pixel: the frame buffer `m` after it (43_graphics R231). The mask is ANDed onto the result. -/
def blitPixel (s : State) (bop : BitVec 4) (mask : Byte) (row col : Nat) (m : Memory) : Except Refusal Memory :=
  match graphicsAddress spriteSize (blitSource s row col), graphicsAddress frameSize (blitDest s row col) with
  | .error r, _ => .error r
  | _, .error r => .error r
  | .ok (some sa), .ok (some da) =>
    .ok (m.put da (blitOp bop (s.spriteByte sa) (Memory.read Config.initFrame m da) &&& mask))
  | _, _ => .ok m

/-- The first `cols` pixels of a row. -/
def blitRow (s : State) (bop : BitVec 4) (mask : Byte) (row : Nat) : Nat → Memory → Except Refusal Memory
  | 0, m => .ok m
  | col + 1, m =>
    match blitRow s bop mask row col m with
    | .error r => .error r
    | .ok m' => blitPixel s bop mask row col m'

/-- The first `rows` rows, each `BL.w` pixels. -/
def blitRows (s : State) (bop : BitVec 4) (mask : Byte) : Nat → Memory → Except Refusal Memory
  | 0, m => .ok m
  | row + 1, m =>
    match blitRows s bop mask row m with
    | .error r => .error r
    | .ok m' => blitRow s bop mask row s.blW.toNat m'

/-- `Blit(bop, mask)` of 43_graphics R231, `pc` advanced; the Blitter's registers and the sprite library stay. -/
def blit (s : State) (bop : BitVec 4) (mask : Byte) : Result :=
  match blitRows s bop mask s.blH.toNat s.frame with
  | .ok m => .next (s.withFrame m).advance
  | .error r => .refused r

/-- `BLIT.r` (43_graphics R229). -/
def execBlitReg (ra rb : Reg) (s : State) : Result := blit s (lowBits 4 s ra) (lowBits 8 s rb)

/-- `BLIT.i` (43_graphics R230). -/
def execBlitImm (bop4 : BitVec 4) (mask8 : BitVec 8) (s : State) : Result := blit s bop4 mask8

/-! The screen. -/

/-- The pixel the screen shows at a column and a row, from the top left, as its byte (10_state R40, 60_exceptions R264). -/
def screenPixel (s : State) (column row : BitVec 8) : Byte := s.frameByte (row.toNat * 256 + column.toNat)

/-- Colour bit `k` of a pixel under a layout (10_state R40). -/
def colourBit (layout : Equiv.Perm (Fin 8)) (pixel : Byte) (k : Fin 8) : Bool := pixel.getLsbD (layout k)

/-- The colour a pixel's byte stands for under a layout: 3 bits of red, 3 of green, 2 of blue (10_state R40). -/
def colourOf (layout : Equiv.Perm (Fin 8)) (pixel : Byte) : Config.Colour where
  red := BitVec.ofBool (colourBit layout pixel 2) ++ BitVec.ofBool (colourBit layout pixel 1) ++
    BitVec.ofBool (colourBit layout pixel 0)
  green := BitVec.ofBool (colourBit layout pixel 5) ++ BitVec.ofBool (colourBit layout pixel 4) ++
    BitVec.ofBool (colourBit layout pixel 3)
  blue := BitVec.ofBool (colourBit layout pixel 7) ++ BitVec.ofBool (colourBit layout pixel 6)

/-- The colour the screen shows at a column and a row: which bits of the byte are red, green and blue is the open parameter
`PixelLayout` (10_state R40, log 30). -/
def screenColour (s : State) (column row : BitVec 8) : Config.Colour :=
  colourOf Config.pixelLayout (screenPixel s column row)

end Sys2Proof.Machine
end

