-- ==== Sys2Proof/Machine/LoadStore.lean ====
section
/-!
DEFINITION. The six Memory instructions (41_memory_instructions R180..R187). The order of effects inside one is the
source's prose order (log 20).
-/

namespace Sys2Proof.Machine

/-- `LDR.r` (41_memory_instructions R182). -/
def execLdrReg (ra rb : Reg) (s : State) : Result := writeBack s ra (s.memRead (eaReg s rb)) id

/-- `LDR.i` (41_memory_instructions R183). -/
def execLdrImm (ra : Reg) (imm17 : BitVec 17) (s : State) : Result :=
  writeBack s ra (s.memRead (eaImm s imm17)) id

/-- `STR.r` (41_memory_instructions R184). -/
def execStrReg (ra rb : Reg) (s : State) : Result :=
  .next (s.memWrite (eaReg s rb) (readReg s ra)).advance

/-- `STR.i` (41_memory_instructions R185). -/
def execStrImm (ra : Reg) (imm17 : BitVec 17) (s : State) : Result :=
  .next (s.memWrite (eaImm s imm17) (readReg s ra)).advance

/-- `PUSH` (41_memory_instructions R186): the source is read after `SP` is decremented. -/
def execPush (ra : Reg) (s : State) : Result :=
  let s₁ := s.withSp (s.sp - 1)
  .next (s₁.memWrite s₁.sp (readReg s₁ ra)).advance

/-- `POP` (41_memory_instructions R187): `SP` is incremented after the destination is written. -/
def execPop (ra : Reg) (s : State) : Result :=
  writeBack s ra (s.memRead s.sp) (fun t => t.withSp (t.sp + 1))

end Sys2Proof.Machine
end

