-- ==== Sys2Proof/Machine/Move.lean ====
section
/-!
DEFINITION. The ALU instructions 16..32: move, compare, shifts and logic (40_alu R149..R166). They leave `STS` alone
unless it is their destination; `CMP` writes `STS.CC` and nothing else.
-/

namespace Sys2Proof.Machine

/-- `MV` (40_alu R150). -/
def execMv (ra rb : Reg) (s : State) : Result := writeBack s ra (readReg s rb) id

/-- `CMP` (40_alu R149). -/
def execCmp (ra rb : Reg) (s : State) : Result :=
  .next (s.setCC (compareCode (readReg s ra) (readReg s rb)).code).advance

/-- The shifted value for an amount in 0..31 (40_alu R151). -/
def shiftBy : Config.ShiftKind → Word → Nat → Word
  | .asl, v, n => v <<< n
  | .asr, v, n => v.sshiftRight n
  | .lsl, v, n => v <<< n
  | .lsr, v, n => v >>> n

/-- A shift by the 32-bit amount `n`: an amount of 32 or more is refused, or gives a free value (`shiftRange`)
(40_alu R151). -/
def shift (kind : Config.ShiftKind) (v n : Word) : Except Refusal Word :=
  if n.toNat < 32 then .ok (shiftBy kind v n.toNat)
  else match shiftRange with
    | .refuse => .error .shiftAmountOutOfRange
    | .freeResult => .ok (Config.shiftCornerResult kind v n)

/-- The end of the eight shifts: the old `<DEST>` shifted, back into `<DEST>` (40_alu R151). -/
def shiftDest (s : State) (kind : Config.ShiftKind) (ra : Reg) (n : Word) : Result :=
  writeBackOr s ra (shift kind (readReg s ra) n) id

/-- `ASL.r` (40_alu R152). -/
def execAslReg (ra rb : Reg) (s : State) : Result := shiftDest s .asl ra (readReg s rb)

/-- `ASR.r` (40_alu R153). -/
def execAsrReg (ra rb : Reg) (s : State) : Result := shiftDest s .asr ra (readReg s rb)

/-- `ASL.i` (40_alu R154). -/
def execAslImm (ra : Reg) (imm14 : BitVec 14) (s : State) : Result := shiftDest s .asl ra (sext32 imm14)

/-- `ASR.i` (40_alu R155). -/
def execAsrImm (ra : Reg) (imm14 : BitVec 14) (s : State) : Result := shiftDest s .asr ra (sext32 imm14)

/-- `LSL.r` (40_alu R156). -/
def execLslReg (ra rb : Reg) (s : State) : Result := shiftDest s .lsl ra (readReg s rb)

/-- `LSL.i` (40_alu R157). -/
def execLslImm (ra : Reg) (imm14 : BitVec 14) (s : State) : Result := shiftDest s .lsl ra (sext32 imm14)

/-- `LSR.r` (40_alu R158). -/
def execLsrReg (ra rb : Reg) (s : State) : Result := shiftDest s .lsr ra (readReg s rb)

/-- `LSR.i` (40_alu R159). -/
def execLsrImm (ra : Reg) (imm14 : BitVec 14) (s : State) : Result := shiftDest s .lsr ra (sext32 imm14)

/-- `AND.r` (40_alu R160). -/
def execAndReg (ra rb rc : Reg) (s : State) : Result :=
  writeBack s ra (readReg s rb &&& readReg s rc) id

/-- `AND.i` (40_alu R161). -/
def execAndImm (ra rb : Reg) (imm9 : BitVec 9) (s : State) : Result :=
  writeBack s ra (readReg s rb &&& sext32 imm9) id

/-- `OR.r` (40_alu R162). -/
def execOrReg (ra rb rc : Reg) (s : State) : Result :=
  writeBack s ra (readReg s rb ||| readReg s rc) id

/-- `OR.i` (40_alu R163). -/
def execOrImm (ra rb : Reg) (imm9 : BitVec 9) (s : State) : Result :=
  writeBack s ra (readReg s rb ||| sext32 imm9) id

/-- `XOR.r` (40_alu R164). -/
def execXorReg (ra rb rc : Reg) (s : State) : Result :=
  writeBack s ra (readReg s rb ^^^ readReg s rc) id

/-- `XOR.i` (40_alu R165). -/
def execXorImm (ra rb : Reg) (imm9 : BitVec 9) (s : State) : Result :=
  writeBack s ra (readReg s rb ^^^ sext32 imm9) id

/-- `NOT` (40_alu R166). -/
def execNotReg (ra rb : Reg) (s : State) : Result := writeBack s ra (~~~ readReg s rb) id

end Sys2Proof.Machine
end

