-- ==== Sys2Proof/Machine/Dispatch.lean ====
section
/-! DEFINITION. One arm per instruction: its meaning. -/

namespace Sys2Proof.Machine

def exec (i : Instr) (s : State) : Host.Outcome State Fault Refusal :=
  match i with
  | .adduReg ra rb rc => Sys2Proof.Machine.execAdduReg ra rb rc s
  | .addsReg ra rb rc => Sys2Proof.Machine.execAddsReg ra rb rc s
  | .adduImm ra rb imm9 => Sys2Proof.Machine.execAdduImm ra rb imm9 s
  | .addsImm ra rb imm9 => Sys2Proof.Machine.execAddsImm ra rb imm9 s
  | .subuReg ra rb rc => Sys2Proof.Machine.execSubuReg ra rb rc s
  | .subsReg ra rb rc => Sys2Proof.Machine.execSubsReg ra rb rc s
  | .subuImm ra rb imm9 => Sys2Proof.Machine.execSubuImm ra rb imm9 s
  | .subsImm ra rb imm9 => Sys2Proof.Machine.execSubsImm ra rb imm9 s
  | .mltuReg ra rb rc => Sys2Proof.Machine.execMltuReg ra rb rc s
  | .mltsReg ra rb rc => Sys2Proof.Machine.execMltsReg ra rb rc s
  | .mltuImm ra rb imm9 => Sys2Proof.Machine.execMltuImm ra rb imm9 s
  | .mltsImm ra rb imm9 => Sys2Proof.Machine.execMltsImm ra rb imm9 s
  | .divuReg ra rb rc => Sys2Proof.Machine.execDivuReg ra rb rc s
  | .divsReg ra rb rc => Sys2Proof.Machine.execDivsReg ra rb rc s
  | .divuImm ra rb imm9 => Sys2Proof.Machine.execDivuImm ra rb imm9 s
  | .divsImm ra rb imm9 => Sys2Proof.Machine.execDivsImm ra rb imm9 s
  | .mv ra rb => Sys2Proof.Machine.execMv ra rb s
  | .cmp ra rb => Sys2Proof.Machine.execCmp ra rb s
  | .aslReg ra rb => Sys2Proof.Machine.execAslReg ra rb s
  | .asrReg ra rb => Sys2Proof.Machine.execAsrReg ra rb s
  | .aslImm ra imm14 => Sys2Proof.Machine.execAslImm ra imm14 s
  | .asrImm ra imm14 => Sys2Proof.Machine.execAsrImm ra imm14 s
  | .lslReg ra rb => Sys2Proof.Machine.execLslReg ra rb s
  | .lslImm ra imm14 => Sys2Proof.Machine.execLslImm ra imm14 s
  | .lsrReg ra rb => Sys2Proof.Machine.execLsrReg ra rb s
  | .lsrImm ra imm14 => Sys2Proof.Machine.execLsrImm ra imm14 s
  | .andReg ra rb rc => Sys2Proof.Machine.execAndReg ra rb rc s
  | .andImm ra rb imm9 => Sys2Proof.Machine.execAndImm ra rb imm9 s
  | .orReg ra rb rc => Sys2Proof.Machine.execOrReg ra rb rc s
  | .orImm ra rb imm9 => Sys2Proof.Machine.execOrImm ra rb imm9 s
  | .xorReg ra rb rc => Sys2Proof.Machine.execXorReg ra rb rc s
  | .xorImm ra rb imm9 => Sys2Proof.Machine.execXorImm ra rb imm9 s
  | .notReg ra rb => Sys2Proof.Machine.execNotReg ra rb s
  | .ldrReg ra rb => Sys2Proof.Machine.execLdrReg ra rb s
  | .ldrImm ra imm17 => Sys2Proof.Machine.execLdrImm ra imm17 s
  | .strReg ra rb => Sys2Proof.Machine.execStrReg ra rb s
  | .strImm ra imm17 => Sys2Proof.Machine.execStrImm ra imm17 s
  | .push ra => Sys2Proof.Machine.execPush ra s
  | .pop ra => Sys2Proof.Machine.execPop ra s
  | .halt => Sys2Proof.Machine.execHalt s
  | .jmpReg c ra => Sys2Proof.Machine.execJmpReg c ra s
  | .jmpImm c imm22 => Sys2Proof.Machine.execJmpImm c imm22 s
  | .jmpsReg c ra => Sys2Proof.Machine.execJmpsReg c ra s
  | .jmpsImm c imm22 => Sys2Proof.Machine.execJmpsImm c imm22 s
  | .jmpi c => Sys2Proof.Machine.execJmpi c s
  | .glodReg ra rb rc => Sys2Proof.Machine.execGlodReg ra rb rc s
  | .glodImm dest12 src10 len12 => Sys2Proof.Machine.execGlodImm dest12 src10 len12 s
  | .blitmem ra rb => Sys2Proof.Machine.execBlitmem ra rb s
  | .blitdimsReg ra rb => Sys2Proof.Machine.execBlitdimsReg ra rb s
  | .blitdimsImm w7 h7 => Sys2Proof.Machine.execBlitdimsImm w7 h7 s
  | .blitReg ra rb => Sys2Proof.Machine.execBlitReg ra rb s
  | .blitImm bop4 mask8 => Sys2Proof.Machine.execBlitImm bop4 mask8 s

end Sys2Proof.Machine
end

