-- ==== Sys2Proof/Machine/Fetch.lean ====
section
/-!
DEFINITION. Fetching and decoding the instruction at `pc` (20_memory R74), and the key tape (60_exceptions R256, log 15).
-/

namespace Sys2Proof.Machine

/-- The word at `pc` (20_memory R74). -/
def fetch (s : State) : Word := s.memRead s.pc

/-- A word that decodes to no instruction is refused under the decoder's reason (30_encoding R112). -/
def decodeRefusal : DecodeRefusal → Refusal
  | .reservedEncoding => .reservedEncoding
  | .unencodableGlodImmediate => .unencodableGlodImmediate
  | .invalidConditionCode => .invalidConditionCode

/-- What comes before the next instruction: a key event, if the tape has one at its head. -/
def nextKey (s : State) : Option Key :=
  match s.keyTape with
  | some k :: _ => some k
  | _ => none

/-- The tape moves on by one entry. -/
def dropTape (s : State) : State := s.withKeyTape s.keyTape.tail

/-- The tape with no event before the next instruction; a tape that has none there is left as it is. -/
def quietTape (s : State) : State :=
  match s.keyTape with
  | some k :: t => s.withKeyTape (none :: some k :: t)
  | _ => s

/-- The state with a word stored where the next fetch reads, running and with no key event first. -/
def placeWord (s : State) (w : Word) : State := quietTape ((s.memWrite s.pc w).withHalted false)

end Sys2Proof.Machine
end

