-- ==== Sys2Proof/Machine/Step.lean ====
section
/-!
DEFINITION. One step: a key event between two instructions, or one instruction (INDEX "Where to start",
20_memory R74, 60_exceptions R256). A halted machine changes no state (42_control R201, log 16).
-/

namespace Sys2Proof.Machine

/-- Fetch, decode, execute (20_memory R74). -/
def runInstruction (s : State) : Host.Outcome State Fault Refusal :=
  match decode (fetch s) with
  | .ok i => exec i s
  | .error r => .refused (decodeRefusal r)

/-- One step of the machine. -/
def step (s : State) : Host.Outcome State Fault Refusal :=
  if s.halted then .next s
  else match nextKey s with
    | some k => .next (keyEvent k (dropTape s))
    | none => runInstruction (dropTape s)

/-- `s` with the instruction of the `nbits` low bits of `w` stored where `step` fetches next, so that the very next step runs
it: the machine not halted and no key event first (log 17). -/
def State.withFetchWord (s : State) (nbits w : Nat) : State := placeWord s (BitVec.ofNat 32 (w % 2 ^ nbits))

end Sys2Proof.Machine
end

