-- ==== Sys2Proof/Machine/Loader.lean ====
section
/-!
DEFINITION. The program loader and the LEG binary format (20_memory R75, R76, 60_exceptions R264, R268). A run starts from
the state `loadBinary` gives (log 17).
-/

namespace Sys2Proof.Machine

/-- The bytes of a file as memory cells from address `a` on. Byte `4k + j` of the file is byte `j` of the word at address
`k` (20_memory R75), which is byte address `4k + j` of main memory. -/
def cellsFrom : Nat → List Byte → Memory
  | _, [] => []
  | a, b :: bs => (a, b) :: cellsFrom (a + 1) bs

/-- The state at the start of a run of a binary file (10_state R44, 20_memory R75, R76). A file that is no whole number of
words is refused; so is one longer than main memory (log 29). -/
def loadBinary (file : List Byte) : Result :=
  if file.length % 4 ≠ 0 then .refused .fileLengthNotMultipleOfFour
  else if mainSize < file.length then .refused .fileLongerThanMemory
  else .next (State.reset.withMain (cellsFrom 0 file))

/-- The binary file of a list of words, each least significant byte first (20_memory R63, R75). -/
def binaryOf : List Word → List Byte
  | [] => []
  | w :: ws => wordByte w 0 :: wordByte w 1 :: wordByte w 2 :: wordByte w 3 :: binaryOf ws

end Sys2Proof.Machine
end

