-- ==== Sys2Proof/Machine/Assembler.lean ====
section
/-!
DEFINITION. The assembler syntax of 30_encoding R120..R126: lines, immediates, register names, mnemonics and condition
prefixes. Text is a list of characters. What the source leaves out (label operands, directives, case, range checks) is
log 25.
-/

namespace Sys2Proof.Machine

/-- Why a line does not assemble. -/
inductive AsmRefusal where
  /-- the token is no mnemonic of 30_encoding R123 -/
  | unknownMnemonic
  /-- the operands are not those of any form of the mnemonic, or an immediate does not fit its field -/
  | badOperands
  /-- the instruction has no encoding: `GLOD` immediate (43_graphics R225) -/
  | unencodable
  deriving DecidableEq, Repr

/-- An operand: a register, or an immediate with its value and whether it was written signed (30_encoding R121). -/
inductive Operand where
  | reg (r : Reg)
  | imm (signed : Bool) (value : Int)
  deriving DecidableEq, Repr

/-- A line: its label, if it has one, and its instruction (30_encoding R120), if it has one (lines with none: log 25). -/
structure AsmLine where
  label : Option (List Char)
  instr : Option Instr
  deriving DecidableEq, Repr

/-! Tokens. -/

/-- A blank separates tokens (30_encoding R120). -/
def isBlank (c : Char) : Bool := c == ' ' || c == '\t'

/-- The tokens of a text; `word` is the token being read, backwards. -/
def tokensFrom : List Char → List Char → List (List Char)
  | [], word => if word.isEmpty then [] else [word.reverse]
  | c :: cs, word =>
    if isBlank c then
      if word.isEmpty then tokensFrom cs [] else word.reverse :: tokensFrom cs []
    else tokensFrom cs (c :: word)

/-- A line without its comment: what stands before the first `#` (30_encoding R120). -/
def withoutComment (line : List Char) : List Char := line.takeWhile (· != '#')

/-- A line with no label begins with a blank (30_encoding R120). -/
def hasLabel : List Char → Bool
  | [] => false
  | c :: _ => !isBlank c

/-! Operands. -/

/-- How many entries of a list stand before a character, if it is in the list. -/
def placeIn (c : Char) : List Char → Option Nat
  | [] => none
  | d :: ds => if c = d then some 0 else (placeIn c ds).map (· + 1)

/-- The value of a digit of the bases of 30_encoding R121, at most 15: its place among the sixteen digits, whose six
letters may be of either case (the case is the model's choice, log 25). -/
def digitValue (c : Char) : Option Nat :=
  match placeIn c "0123456789ABCDEF".toList with
  | some n => some n
  | none => placeIn c "0123456789abcdef".toList

/-- The number written by digits of a base, `n` being what stands before them. -/
def digitsFrom (base : Nat) : List Char → Nat → Option Nat
  | [], n => some n
  | c :: cs, n =>
    match digitValue c with
    | some d => if d < base then digitsFrom base cs (n * base + d) else none
    | none => none

/-- One or more digits of a base. -/
def number (base : Nat) (cs : List Char) : Option Nat := if cs.isEmpty then none else digitsFrom base cs 0

/-- The base a prefix letter names (30_encoding R121). -/
def baseOf (c : Char) : Option Nat :=
  if c = 'd' then some 10 else if c = 'x' then some 16 else if c = 'b' then some 2 else none

/-- An immediate: `0dNN 0xNN 0bNN` unsigned, `0sdNN 0sxNN 0sbNN` signed, a `-` after the prefix for a negative one
(30_encoding R121). -/
def parseImmediate : List Char → Option Operand
  | '0' :: 's' :: b :: '-' :: cs => do
    let n ← number (← baseOf b) cs
    return .imm true (-(n : Int))
  | '0' :: 's' :: b :: cs => do
    let n ← number (← baseOf b) cs
    return .imm true n
  | '0' :: b :: cs => do
    let n ← number (← baseOf b) cs
    return .imm false n
  | _ => none

/-- The aliases of 30_encoding R122. -/
def registerAliases : List (List Char × Reg) :=
  [("INTLR".toList, .intlr), ("IHDLR".toList, .ihdlr), ("PC".toList, .pc), ("STS".toList, .sts), ("SP".toList, .sp),
   ("LR".toList, .lr)]

/-- A register name: `R0`..`R31` without leading zeros, or an alias (30_encoding R122). -/
def parseRegister (tok : List Char) : Option Reg :=
  match tok with
  | ['R', d] => (number 10 [d]).map fun n => Reg.ofNum (BitVec.ofNat 5 n)
  | ['R', d, e] =>
    match number 10 [d, e] with
    | some n => if 10 ≤ n ∧ n < 32 then some (Reg.ofNum (BitVec.ofNat 5 n)) else none
    | none => none
  | _ => registerAliases.lookup tok

/-- The operand a token writes. -/
def parseOperand (tok : List Char) : Option Operand :=
  match parseRegister tok with
  | some r => some (.reg r)
  | none => parseImmediate tok

/-- All tokens as operands. -/
def parseOperands : List (List Char) → Option (List Operand)
  | [] => some []
  | t :: ts => do
    let o ← parseOperand t
    let os ← parseOperands ts
    return o :: os

/-- The field of `w` bits an immediate fills, if it fits: an unsigned one below 2^w, a signed one as `w` bits of two's
complement (30_encoding R121). -/
def fit (w : Nat) : Operand → Option (BitVec w)
  | .reg _ => none
  | .imm false v => if 0 ≤ v ∧ v < 2 ^ w then some (BitVec.ofInt w v) else none
  | .imm true v => if -2 ^ (w - 1) ≤ v ∧ v < 2 ^ (w - 1) then some (BitVec.ofInt w v) else none

/-! Mnemonics. The form is chosen by whether the last operand is a register (30_encoding R123). -/

/-- `<DEST> <OP1> <OP2>`, `<OP2>` a register or 9 bits. -/
def threeOperands (f : Reg → Reg → Reg → Instr) (g : Reg → Reg → BitVec 9 → Instr) : List Operand → Option Instr
  | [.reg a, .reg b, .reg c] => some (f a b c)
  | [.reg a, .reg b, o] => (fit 9 o).map (g a b)
  | _ => none

/-- Two registers. -/
def twoRegisters (f : Reg → Reg → Instr) : List Operand → Option Instr
  | [.reg a, .reg b] => some (f a b)
  | _ => none

/-- A register, then a register or `w` bits. -/
def registerThen (w : Nat) (f : Reg → Reg → Instr) (g : Reg → BitVec w → Instr) : List Operand → Option Instr
  | [.reg a, .reg b] => some (f a b)
  | [.reg a, o] => (fit w o).map (g a)
  | _ => none

/-- One register. -/
def oneRegister (f : Reg → Instr) : List Operand → Option Instr
  | [.reg a] => some (f a)
  | _ => none

/-- No operand. -/
def noOperand (i : Instr) : List Operand → Option Instr
  | [] => some i
  | _ => none

/-- A register or 22 bits. -/
def jumpOperand (f : Reg → Instr) (g : BitVec 22 → Instr) : List Operand → Option Instr
  | [.reg a] => some (f a)
  | [o] => (fit 22 o).map g
  | _ => none

/-- `GLOD`: three registers or three immediates of 12, 10 and 12 bits. -/
def glodOperands : List Operand → Option Instr
  | [.reg a, .reg b, .reg c] => some (.glodReg a b c)
  | [d, s, l] => do return .glodImm (← fit 12 d) (← fit 10 s) (← fit 12 l)
  | _ => none

/-- `BLITDIMS`: two registers or two immediates of 7 bits. -/
def blitdimsOperands : List Operand → Option Instr
  | [.reg a, .reg b] => some (.blitdimsReg a b)
  | [w, h] => do return .blitdimsImm (← fit 7 w) (← fit 7 h)
  | _ => none

/-- `BLIT`: two registers or two immediates of 4 and 8 bits. -/
def blitOperands : List Operand → Option Instr
  | [.reg a, .reg b] => some (.blitReg a b)
  | [o, m] => do return .blitImm (← fit 4 o) (← fit 8 m)
  | _ => none

/-- The condition names of 10_state R31, and no name, which is the null condition (30_encoding R124). -/
def conditionNames : List (List Char × Cond) :=
  [([], .ns), ("NS".toList, .ns), ("NE".toList, .ne), ("E".toList, .e), ("GT".toList, .gt), ("LT".toList, .lt),
   ("GTE".toList, .gte), ("LTE".toList, .lte), ("OF".toList, .of), ("Z".toList, .z), ("NZ".toList, .nz),
   ("NEG".toList, .neg), ("POS".toList, .pos)]

/-- The spellings of the jumps: condition, `JMP`, `S` or `I` or nothing (30_encoding R124). -/
def jumpMnemonics : List (List Char × (List Operand → Option Instr)) :=
  conditionNames.flatMap fun p =>
    [(p.1 ++ "JMP".toList, jumpOperand (.jmpReg p.2) (.jmpImm p.2)),
     (p.1 ++ "JMPS".toList, jumpOperand (.jmpsReg p.2) (.jmpsImm p.2)),
     (p.1 ++ "JMPI".toList, noOperand (.jmpi p.2))]

/-- The spellings of 30_encoding R123; without a type an arithmetic mnemonic is unsigned. -/
def mnemonics : List (List Char × (List Operand → Option Instr)) :=
  [("ADD".toList, threeOperands .adduReg .adduImm), ("ADDU".toList, threeOperands .adduReg .adduImm),
   ("ADDS".toList, threeOperands .addsReg .addsImm), ("SUB".toList, threeOperands .subuReg .subuImm),
   ("SUBU".toList, threeOperands .subuReg .subuImm), ("SUBS".toList, threeOperands .subsReg .subsImm),
   ("MLT".toList, threeOperands .mltuReg .mltuImm), ("MLTU".toList, threeOperands .mltuReg .mltuImm),
   ("MLTS".toList, threeOperands .mltsReg .mltsImm), ("DIV".toList, threeOperands .divuReg .divuImm),
   ("DIVU".toList, threeOperands .divuReg .divuImm), ("DIVS".toList, threeOperands .divsReg .divsImm),
   ("MV".toList, twoRegisters .mv), ("CMP".toList, twoRegisters .cmp), ("CMPU".toList, twoRegisters .cmp),
   ("CMPS".toList, twoRegisters .cmp), ("ASL".toList, registerThen 14 .aslReg .aslImm),
   ("ASR".toList, registerThen 14 .asrReg .asrImm), ("LSL".toList, registerThen 14 .lslReg .lslImm),
   ("LSR".toList, registerThen 14 .lsrReg .lsrImm), ("AND".toList, threeOperands .andReg .andImm),
   ("OR".toList, threeOperands .orReg .orImm), ("XOR".toList, threeOperands .xorReg .xorImm),
   ("NOT".toList, twoRegisters .notReg), ("LDR".toList, registerThen 17 .ldrReg .ldrImm),
   ("STR".toList, registerThen 17 .strReg .strImm), ("PUSH".toList, oneRegister .push),
   ("POP".toList, oneRegister .pop), ("HALT".toList, noOperand .halt), ("GLOD".toList, glodOperands),
   ("BLITMEM".toList, twoRegisters .blitmem), ("BLITDIMS".toList, blitdimsOperands), ("BLIT".toList, blitOperands)]
  ++ jumpMnemonics

/-- The instruction of a mnemonic and its operands (30_encoding R123). -/
def assembleOperation (mnemonic : List Char) (operands : List Operand) : Except AsmRefusal Instr :=
  match mnemonics.lookup mnemonic with
  | none => .error .unknownMnemonic
  | some build =>
    match build operands with
    | some i => .ok i
    | none => .error .badOperands

/-- The instruction of the tokens after the label (30_encoding R120). R120's line has a mnemonic and says nothing of a blank
line, a line with only a comment and a line with only a label. DESIGN CHOICE, log 25: where no token is left the line is
accepted and has no instruction, so `assemble` gives it no word. -/
def assembleTokens : List (List Char) → Except AsmRefusal (Option Instr)
  | [] => .ok none
  | m :: ts =>
    match parseOperands ts with
    | none => .error .badOperands
    | some os =>
      match assembleOperation m os with
      | .ok i => .ok (some i)
      | .error e => .error e

/-- One line of assembly (30_encoding R120). The source does not give the lexical form of a label. DESIGN CHOICE, log 25:
every run of characters that are neither blank nor `#` at the start of a line is a label, a mnemonic or a register name
among them, and nothing is asked of it. -/
def assembleLine (line : List Char) : Except AsmRefusal AsmLine :=
  let text := withoutComment line
  let toks := tokensFrom text []
  if hasLabel text then
    match assembleTokens toks.tail with
    | .ok i => .ok { label := toks.head?, instr := i }
    | .error e => .error e
  else
    match assembleTokens toks with
    | .ok i => .ok { label := none, instr := i }
    | .error e => .error e

/-- The words of a program: one for each line that has an instruction, from address 0 on (20_memory R75); a line with none
gives no word and takes no address (log 25). -/
def assemble : List (List Char) → Except AsmRefusal (List Word)
  | [] => .ok []
  | l :: ls =>
    match assembleLine l, assemble ls with
    | .error e, _ => .error e
    | _, .error e => .error e
    | .ok r, .ok ws =>
      match r.instr with
      | none => .ok ws
      | some i =>
        match encode i with
        | some w => .ok (w :: ws)
        | none => .error .unencodable

/-- The names the source gives the interrupt codes (30_encoding R125). -/
def Key.assemblyName : Key → List Char
  | .upArrow => "UPARROW".toList
  | .downArrow => "DOWNARROW".toList
  | .leftArrow => "LEFTARROW".toList
  | .rightArrow => "RIGHTARROW".toList
  | .enter => "ENTER".toList
  | .escape => "ESCAPE".toList
  | .space => "SPACE".toList

end Sys2Proof.Machine
end

