-- ==== Sys2Proof/Safety.lean ====
section
/-!
DEFINITION. The terms the statements use: what an instruction's destination is, what two states have in common, the
canonical form of the three memories, and the shape of a register result.
-/

namespace Sys2Proof

/-- The register an instruction writes as its destination `<DEST>` (10_state R28): an ALU instruction but `CMP`, a load,
`POP`. -/
def Instr.dest : Instr → Option Reg
  | .adduReg ra _ _ | .addsReg ra _ _ | .adduImm ra _ _ | .addsImm ra _ _ | .subuReg ra _ _
  | .subsReg ra _ _ | .subuImm ra _ _ | .subsImm ra _ _ | .mltuReg ra _ _ | .mltsReg ra _ _
  | .mltuImm ra _ _ | .mltsImm ra _ _ | .divuReg ra _ _ | .divsReg ra _ _ | .divuImm ra _ _
  | .divsImm ra _ _ | .mv ra _ | .aslReg ra _ | .asrReg ra _ | .aslImm ra _ | .asrImm ra _ | .lslReg ra _
  | .lslImm ra _ | .lsrReg ra _ | .lsrImm ra _ | .andReg ra _ _ | .andImm ra _ _ | .orReg ra _ _
  | .orImm ra _ _ | .xorReg ra _ _ | .xorImm ra _ _ | .notReg ra _ | .ldrReg ra _ | .ldrImm ra _ | .pop ra => some ra
  | .cmp _ _ | .strReg _ _ | .strImm _ _ | .push _ | .halt | .jmpReg _ _ | .jmpImm _ _ | .jmpsReg _ _
  | .jmpsImm _ _ | .jmpi _ | .glodReg _ _ _ | .glodImm _ _ _ | .blitmem _ _ | .blitdimsReg _ _
  | .blitdimsImm _ _ | .blitReg _ _ | .blitImm _ _ => none

/-- ALU operations 0..15 (40_alu R132). -/
def Instr.isArith : Instr → Bool
  | .adduReg _ _ _ | .addsReg _ _ _ | .adduImm _ _ _ | .addsImm _ _ _ | .subuReg _ _ _ | .subsReg _ _ _
  | .subuImm _ _ _ | .subsImm _ _ _ | .mltuReg _ _ _ | .mltsReg _ _ _ | .mltuImm _ _ _ | .mltsImm _ _ _
  | .divuReg _ _ _ | .divsReg _ _ _ | .divuImm _ _ _ | .divsImm _ _ _ => true
  | .mv _ _ | .cmp _ _ | .aslReg _ _ | .asrReg _ _ | .aslImm _ _ | .asrImm _ _ | .lslReg _ _ | .lslImm _ _
  | .lsrReg _ _ | .lsrImm _ _ | .andReg _ _ _ | .andImm _ _ _ | .orReg _ _ _ | .orImm _ _ _ | .xorReg _ _ _
  | .xorImm _ _ _ | .notReg _ _ | .ldrReg _ _ | .ldrImm _ _ | .strReg _ _ | .strImm _ _ | .push _ | .pop _
  | .halt | .jmpReg _ _ | .jmpImm _ _ | .jmpsReg _ _ | .jmpsImm _ _ | .jmpi _ | .glodReg _ _ _
  | .glodImm _ _ _ | .blitmem _ _ | .blitdimsReg _ _ | .blitdimsImm _ _ | .blitReg _ _ | .blitImm _ _ => false

/-- The four divides (40_alu R167). -/
def Instr.isDivide : Instr → Bool
  | .divuReg _ _ _ | .divsReg _ _ _ | .divuImm _ _ _ | .divsImm _ _ _ => true
  | .adduReg _ _ _ | .addsReg _ _ _ | .adduImm _ _ _ | .addsImm _ _ _ | .subuReg _ _ _ | .subsReg _ _ _
  | .subuImm _ _ _ | .subsImm _ _ _ | .mltuReg _ _ _ | .mltsReg _ _ _ | .mltuImm _ _ _ | .mltsImm _ _ _
  | .mv _ _ | .cmp _ _ | .aslReg _ _ | .asrReg _ _ | .aslImm _ _ | .asrImm _ _ | .lslReg _ _ | .lslImm _ _
  | .lsrReg _ _ | .lsrImm _ _ | .andReg _ _ _ | .andImm _ _ _ | .orReg _ _ _ | .orImm _ _ _ | .xorReg _ _ _
  | .xorImm _ _ _ | .notReg _ _ | .ldrReg _ _ | .ldrImm _ _ | .strReg _ _ | .strImm _ _ | .push _ | .pop _
  | .halt | .jmpReg _ _ | .jmpImm _ _ | .jmpsReg _ _ | .jmpsImm _ _ | .jmpi _ | .glodReg _ _ _
  | .glodImm _ _ _ | .blitmem _ _ | .blitdimsReg _ _ | .blitdimsImm _ _ | .blitReg _ _ | .blitImm _ _ => false

/-- The eight shifts (40_alu R151). -/
def Instr.isShift : Instr → Bool
  | .aslReg _ _ | .asrReg _ _ | .aslImm _ _ | .asrImm _ _ | .lslReg _ _ | .lslImm _ _ | .lsrReg _ _
  | .lsrImm _ _ => true
  | .adduReg _ _ _ | .addsReg _ _ _ | .adduImm _ _ _ | .addsImm _ _ _ | .subuReg _ _ _ | .subsReg _ _ _
  | .subuImm _ _ _ | .subsImm _ _ _ | .mltuReg _ _ _ | .mltsReg _ _ _ | .mltuImm _ _ _ | .mltsImm _ _ _
  | .divuReg _ _ _ | .divsReg _ _ _ | .divuImm _ _ _ | .divsImm _ _ _ | .mv _ _ | .cmp _ _ | .andReg _ _ _
  | .andImm _ _ _ | .orReg _ _ _ | .orImm _ _ _ | .xorReg _ _ _ | .xorImm _ _ _ | .notReg _ _ | .ldrReg _ _
  | .ldrImm _ _ | .strReg _ _ | .strImm _ _ | .push _ | .pop _ | .halt | .jmpReg _ _ | .jmpImm _ _
  | .jmpsReg _ _ | .jmpsImm _ _ | .jmpi _ | .glodReg _ _ _ | .glodImm _ _ _ | .blitmem _ _
  | .blitdimsReg _ _ | .blitdimsImm _ _ | .blitReg _ _ | .blitImm _ _ => false

/-- The instructions that write main memory (10_state R37). -/
def Instr.stores : Instr → Bool
  | .strReg _ _ | .strImm _ _ | .push _ => true
  | .adduReg _ _ _ | .addsReg _ _ _ | .adduImm _ _ _ | .addsImm _ _ _ | .subuReg _ _ _ | .subsReg _ _ _
  | .subuImm _ _ _ | .subsImm _ _ _ | .mltuReg _ _ _ | .mltsReg _ _ _ | .mltuImm _ _ _ | .mltsImm _ _ _
  | .divuReg _ _ _ | .divsReg _ _ _ | .divuImm _ _ _ | .divsImm _ _ _ | .mv _ _ | .cmp _ _ | .aslReg _ _
  | .asrReg _ _ | .aslImm _ _ | .asrImm _ _ | .lslReg _ _ | .lslImm _ _ | .lsrReg _ _ | .lsrImm _ _
  | .andReg _ _ _ | .andImm _ _ _ | .orReg _ _ _ | .orImm _ _ _ | .xorReg _ _ _ | .xorImm _ _ _
  | .notReg _ _ | .ldrReg _ _ | .ldrImm _ _ | .pop _ | .halt | .jmpReg _ _ | .jmpImm _ _ | .jmpsReg _ _
  | .jmpsImm _ _ | .jmpi _ | .glodReg _ _ _ | .glodImm _ _ _ | .blitmem _ _ | .blitdimsReg _ _
  | .blitdimsImm _ _ | .blitReg _ _ | .blitImm _ _ => false

/-- The instructions that write the sprite library (10_state R39). -/
def Instr.loadsSprite : Instr → Bool
  | .glodReg _ _ _ | .glodImm _ _ _ => true
  | .adduReg _ _ _ | .addsReg _ _ _ | .adduImm _ _ _ | .addsImm _ _ _ | .subuReg _ _ _ | .subsReg _ _ _
  | .subuImm _ _ _ | .subsImm _ _ _ | .mltuReg _ _ _ | .mltsReg _ _ _ | .mltuImm _ _ _ | .mltsImm _ _ _
  | .divuReg _ _ _ | .divsReg _ _ _ | .divuImm _ _ _ | .divsImm _ _ _ | .mv _ _ | .cmp _ _ | .aslReg _ _
  | .asrReg _ _ | .aslImm _ _ | .asrImm _ _ | .lslReg _ _ | .lslImm _ _ | .lsrReg _ _ | .lsrImm _ _
  | .andReg _ _ _ | .andImm _ _ _ | .orReg _ _ _ | .orImm _ _ _ | .xorReg _ _ _ | .xorImm _ _ _
  | .notReg _ _ | .ldrReg _ _ | .ldrImm _ _ | .strReg _ _ | .strImm _ _ | .push _ | .pop _ | .halt
  | .jmpReg _ _ | .jmpImm _ _ | .jmpsReg _ _ | .jmpsImm _ _ | .jmpi _ | .blitmem _ _ | .blitdimsReg _ _
  | .blitdimsImm _ _ | .blitReg _ _ | .blitImm _ _ => false

/-- The instructions that write the frame buffer (10_state R38). -/
def Instr.blits : Instr → Bool
  | .blitReg _ _ | .blitImm _ _ => true
  | .adduReg _ _ _ | .addsReg _ _ _ | .adduImm _ _ _ | .addsImm _ _ _ | .subuReg _ _ _ | .subsReg _ _ _
  | .subuImm _ _ _ | .subsImm _ _ _ | .mltuReg _ _ _ | .mltsReg _ _ _ | .mltuImm _ _ _ | .mltsImm _ _ _
  | .divuReg _ _ _ | .divsReg _ _ _ | .divuImm _ _ _ | .divsImm _ _ _ | .mv _ _ | .cmp _ _ | .aslReg _ _
  | .asrReg _ _ | .aslImm _ _ | .asrImm _ _ | .lslReg _ _ | .lslImm _ _ | .lsrReg _ _ | .lsrImm _ _
  | .andReg _ _ _ | .andImm _ _ _ | .orReg _ _ _ | .orImm _ _ _ | .xorReg _ _ _ | .xorImm _ _ _
  | .notReg _ _ | .ldrReg _ _ | .ldrImm _ _ | .strReg _ _ | .strImm _ _ | .push _ | .pop _ | .halt
  | .jmpReg _ _ | .jmpImm _ _ | .jmpsReg _ _ | .jmpsImm _ _ | .jmpi _ | .glodReg _ _ _ | .glodImm _ _ _
  | .blitmem _ _ | .blitdimsReg _ _ | .blitdimsImm _ _ => false

/-- The instructions that write `BL.w` and `BL.h` (10_state R36). -/
def Instr.setsBlitDims : Instr → Bool
  | .blitdimsReg _ _ | .blitdimsImm _ _ => true
  | .adduReg _ _ _ | .addsReg _ _ _ | .adduImm _ _ _ | .addsImm _ _ _ | .subuReg _ _ _ | .subsReg _ _ _
  | .subuImm _ _ _ | .subsImm _ _ _ | .mltuReg _ _ _ | .mltsReg _ _ _ | .mltuImm _ _ _ | .mltsImm _ _ _
  | .divuReg _ _ _ | .divsReg _ _ _ | .divuImm _ _ _ | .divsImm _ _ _ | .mv _ _ | .cmp _ _ | .aslReg _ _
  | .asrReg _ _ | .aslImm _ _ | .asrImm _ _ | .lslReg _ _ | .lslImm _ _ | .lsrReg _ _ | .lsrImm _ _
  | .andReg _ _ _ | .andImm _ _ _ | .orReg _ _ _ | .orImm _ _ _ | .xorReg _ _ _ | .xorImm _ _ _
  | .notReg _ _ | .ldrReg _ _ | .ldrImm _ _ | .strReg _ _ | .strImm _ _ | .push _ | .pop _ | .halt
  | .jmpReg _ _ | .jmpImm _ _ | .jmpsReg _ _ | .jmpsImm _ _ | .jmpi _ | .glodReg _ _ _ | .glodImm _ _ _
  | .blitmem _ _ | .blitReg _ _ | .blitImm _ _ => false

/-- The instructions that move `SP` (10_state R26). -/
def Instr.usesStack : Instr → Bool
  | .push _ | .pop _ => true
  | .adduReg _ _ _ | .addsReg _ _ _ | .adduImm _ _ _ | .addsImm _ _ _ | .subuReg _ _ _ | .subsReg _ _ _
  | .subuImm _ _ _ | .subsImm _ _ _ | .mltuReg _ _ _ | .mltsReg _ _ _ | .mltuImm _ _ _ | .mltsImm _ _ _
  | .divuReg _ _ _ | .divsReg _ _ _ | .divuImm _ _ _ | .divsImm _ _ _ | .mv _ _ | .cmp _ _ | .aslReg _ _
  | .asrReg _ _ | .aslImm _ _ | .asrImm _ _ | .lslReg _ _ | .lslImm _ _ | .lsrReg _ _ | .lsrImm _ _
  | .andReg _ _ _ | .andImm _ _ _ | .orReg _ _ _ | .orImm _ _ _ | .xorReg _ _ _ | .xorImm _ _ _
  | .notReg _ _ | .ldrReg _ _ | .ldrImm _ _ | .strReg _ _ | .strImm _ _ | .halt | .jmpReg _ _ | .jmpImm _ _
  | .jmpsReg _ _ | .jmpsImm _ _ | .jmpi _ | .glodReg _ _ _ | .glodImm _ _ _ | .blitmem _ _
  | .blitdimsReg _ _ | .blitdimsImm _ _ | .blitReg _ _ | .blitImm _ _ => false

/-- The instructions that write `LR` of themselves (10_state R29). -/
def Instr.links : Instr → Bool
  | .jmpsReg _ _ | .jmpsImm _ _ => true
  | .adduReg _ _ _ | .addsReg _ _ _ | .adduImm _ _ _ | .addsImm _ _ _ | .subuReg _ _ _ | .subsReg _ _ _
  | .subuImm _ _ _ | .subsImm _ _ _ | .mltuReg _ _ _ | .mltsReg _ _ _ | .mltuImm _ _ _ | .mltsImm _ _ _
  | .divuReg _ _ _ | .divsReg _ _ _ | .divuImm _ _ _ | .divsImm _ _ _ | .mv _ _ | .cmp _ _ | .aslReg _ _
  | .asrReg _ _ | .aslImm _ _ | .asrImm _ _ | .lslReg _ _ | .lslImm _ _ | .lsrReg _ _ | .lsrImm _ _
  | .andReg _ _ _ | .andImm _ _ _ | .orReg _ _ _ | .orImm _ _ _ | .xorReg _ _ _ | .xorImm _ _ _
  | .notReg _ _ | .ldrReg _ _ | .ldrImm _ _ | .strReg _ _ | .strImm _ _ | .push _ | .pop _ | .halt
  | .jmpReg _ _ | .jmpImm _ _ | .jmpi _ | .glodReg _ _ _ | .glodImm _ _ _ | .blitmem _ _ | .blitdimsReg _ _
  | .blitdimsImm _ _ | .blitReg _ _ | .blitImm _ _ => false

namespace Machine

/-- The three memories are in canonical form, each within its own size (10_state R37..R39, log 1). -/
def State.memoriesWf (s : State) : Bool :=
  Memory.wf mainSize s.main && Memory.wf spriteSize s.sprite && Memory.wf frameSize s.frame

/-- Every register but `PC` and those listed reads as before. -/
def RegsKept (written : List Reg) (s t : State) : Prop :=
  ∀ r, r ≠ .pc → r ∉ written → readReg t r = readReg s r

/-- Every byte of main memory reads as before. -/
def MainKept (s t : State) : Prop := ∀ a, t.mainByte a = s.mainByte a

/-- Every byte of main memory but the four of the word at `addr` reads as before. -/
def MainKeptOutside (addr : Word) (s t : State) : Prop :=
  ∀ a, ¬ (4 * addr.toNat ≤ a ∧ a < 4 * addr.toNat + 4) → t.mainByte a = s.mainByte a

/-- Every byte of the sprite library reads as before. -/
def SpriteKept (s t : State) : Prop := ∀ a, t.spriteByte a = s.spriteByte a

/-- Every byte of the frame buffer reads as before. -/
def FrameKept (s t : State) : Prop := ∀ a, t.frameByte a = s.frameByte a

/-- The Blitter's four registers are as before. -/
def BlitterKept (s t : State) : Prop :=
  t.blSrc = s.blSrc ∧ t.blDst = s.blDst ∧ t.blW = s.blW ∧ t.blH = s.blH

/-- Neither the halt bit nor the key tape is touched. -/
def ControlKept (s t : State) : Prop := t.halted = s.halted ∧ t.keyTape = s.keyTape

/-- Everything but `PC`, the registers listed and the count of free values is as before. -/
def OnlyRegsWritten (written : List Reg) (s t : State) : Prop :=
  RegsKept written s t ∧ MainKept s t ∧ SpriteKept s t ∧ FrameKept s t ∧ BlitterKept s t ∧ ControlKept s t

/-- `t` is `s` after an instruction that writes `v` to `ra` and nothing else (10_state R28): `PC` advanced, R29 taking the
low six bits (decision D12, log 19). -/
def RegisterResult (s t : State) (ra : Reg) (v : Word) : Prop :=
  readReg t ra = (if ra = .sts then (v.setWidth 6).setWidth 32 else v) ∧
  t.pc = s.pc + 1 ∧ t.freeDraws = s.freeDraws ∧ OnlyRegsWritten [ra] s t

/-- `t` is `s` after ALU operations 0..15 with the result `v` (40_alu R132): `STS.CC` is the next free value, `STS.IF` bit 5
of the result where R29 is the destination and unchanged where not. -/
def ArithResult (s t : State) (ra : Reg) (v : Word) : Prop :=
  (ra ≠ .sts → readReg t ra = v) ∧
  t.iflag = (if ra = .sts then v.getLsbD 5 else s.iflag) ∧
  t.cc = Config.freeCC s.freeDraws ∧ t.freeDraws = s.freeDraws + 1 ∧
  t.pc = s.pc + 1 ∧ OnlyRegsWritten [ra, .sts] s t

/-- Everything but `PC` is as before. -/
def OnlyPcWritten (s t : State) : Prop := t.freeDraws = s.freeDraws ∧ OnlyRegsWritten [] s t

/-- Everything but `PC`, the registers listed and the word of main memory at `addr` is as before. -/
def OnlyWordWritten (written : List Reg) (addr : Word) (s t : State) : Prop :=
  RegsKept written s t ∧ MainKeptOutside addr s t ∧ SpriteKept s t ∧ FrameKept s t ∧ BlitterKept s t ∧
  ControlKept s t ∧ t.freeDraws = s.freeDraws

/-- `v` is `x` shifted left by `n`: zeros enter at bit 0 (40_alu R151). -/
def ShiftedLeft (v x : Word) (n : Nat) : Prop :=
  ∀ i, i < 32 → v.getLsbD i = if n ≤ i then x.getLsbD (i - n) else false

/-- `v` is `x` shifted right by `n`: zeros enter at bit 31 (40_alu R151). -/
def ShiftedRight (v x : Word) (n : Nat) : Prop :=
  ∀ i, i < 32 → v.getLsbD i = if i + n < 32 then x.getLsbD (i + n) else false

/-- `v` is `x` shifted right by `n`: copies of bit 31 enter (40_alu R151). -/
def ShiftedRightSigned (v x : Word) (n : Nat) : Prop :=
  ∀ i, i < 32 → v.getLsbD i = if i + n < 32 then x.getLsbD (i + n) else x.getLsbD 31

/-- `t` is `s` after `SpriteLoad(dest, src, len)` and the advance of `pc` (43_graphics R223). -/
def SpriteLoaded (s t : State) (dest : Nat) (src : Word) (len : Nat) : Prop :=
  (∀ k, k < len →
    t.spriteByte (dest + k) = wordByte (s.memRead (src + BitVec.ofNat 32 (k / 4))) (k % 4)) ∧
  (∀ a, ¬ (dest ≤ a ∧ a < dest + len) → t.spriteByte a = s.spriteByte a) ∧
  t.pc = s.pc + 1 ∧ t.freeDraws = s.freeDraws ∧
  RegsKept [] s t ∧ MainKept s t ∧ FrameKept s t ∧ BlitterKept s t ∧ ControlKept s t

/-- Byte `a` of the frame buffer is a pixel of the rectangle the Blitter's registers describe (43_graphics R231). -/
def InBlit (s : State) (a : Nat) : Prop :=
  ∃ row col, row < s.blH.toNat ∧ col < s.blW.toNat ∧ a = s.blDst.toNat + row * 256 + col

/-- `t` is `s` after `Blit(bop, mask)` and the advance of `pc` (43_graphics R231). -/
def Blitted (s t : State) (bop : BitVec 4) (mask : Byte) : Prop :=
  (∀ row col, row < s.blH.toNat → col < s.blW.toNat →
    t.frameByte (s.blDst.toNat + row * 256 + col) =
      blitOp bop (s.spriteByte (s.blSrc.toNat + row * s.blW.toNat + col))
        (s.frameByte (s.blDst.toNat + row * 256 + col)) &&& mask) ∧
  (∀ a, ¬ InBlit s a → t.frameByte a = s.frameByte a) ∧
  t.pc = s.pc + 1 ∧ t.freeDraws = s.freeDraws ∧
  RegsKept [] s t ∧ MainKept s t ∧ SpriteKept s t ∧ BlitterKept s t ∧ ControlKept s t

/-- Every pixel of the Blitter's rectangle lies within both graphics memories (43_graphics R231). -/
def BlitInRange (s : State) : Prop :=
  s.blW = 0#7 ∨ s.blH = 0#7 ∨
    (s.blSrc.toNat + s.blW.toNat * s.blH.toNat ≤ 4096 ∧
      s.blDst.toNat + (s.blH.toNat - 1) * 256 + s.blW.toNat ≤ 65536)

/-- Three mnemonics spell `JMP`, `JMPS` and `JMPI` with the condition `c`, whose code is `code`, for every operand: a register,
22 bits written as a signed or as an unsigned immediate, and none for `JMPI` (30_encoding R121, R123, R124). -/
def SpellsJumps (jmp jmps jmpi : String) (c : Cond) (code : BitVec 5) : Prop :=
  c.code = code ∧
  (∀ ra, assembleOperation jmp.toList [.reg ra] = .ok (.jmpReg c ra)) ∧
  (∀ ra, assembleOperation jmps.toList [.reg ra] = .ok (.jmpsReg c ra)) ∧
  (∀ v : BitVec 22, assembleOperation jmp.toList [.imm true v.toInt] = .ok (.jmpImm c v) ∧
    assembleOperation jmp.toList [.imm false v.toNat] = .ok (.jmpImm c v)) ∧
  (∀ v : BitVec 22, assembleOperation jmps.toList [.imm true v.toInt] = .ok (.jmpsImm c v) ∧
    assembleOperation jmps.toList [.imm false v.toNat] = .ok (.jmpsImm c v)) ∧
  assembleOperation jmpi.toList [] = .ok (.jmpi c)

/-- 6 and 13..31, the codes that name no condition (10_state R31). -/
def InvalidCode (c : BitVec 5) : Prop := c.toNat = 6 ∨ 13 ≤ c.toNat

end Machine

end Sys2Proof
end

