-- ==== Sys2Proof/Certificates/Slice0/Obligations.lean ====
section
/-!
DEFINITION. The statements. Each docstring names the rules of spec/ it formalises; where a clause rests on a choice the
log records, it names the log entry.
-/

open Sys2Proof Sys2Proof.Machine

/-! Words and instructions. -/

/-- 30_encoding R114: the zero word is `HALT`; its condition is the null status, its type the control type, its operation
the halt instruction, the rest of its bits unused. A machine that runs it is halted; what else `HALT` does is
`HaltEndsTheRun`. -/
def Obligations.ZeroWordIsHalt : Prop :=
  condField 0#32 = Cond.code .ns ∧ field 0#32 5 2 = 0b00#2 ∧ field 0#32 7 3 = 0#3 ∧
  Instr.halt.unusedBits = 0xFFFFFC00#32 ∧ decode 0#32 = .ok .halt ∧
  ∀ s : State, s.memRead s.pc = 0#32 → ∃ t, runInstruction s = .next t ∧ t.halted = true

/-- 30_encoding R94..R104: decoding the word of a well-formed instruction gives the instruction back, every operand at
every value. The field layouts of Control and Graphics are the spec's repairs (log 13); `GLOD.i`, which has no word
(decision D4, log 14), is not well-formed. -/
def Obligations.DecodeOfEncode : Prop :=
  ∀ i : Instr, i.wellFormed = true → ∃ w, encode i = some w ∧ decode w = .ok i

/-- 30_encoding R104: a word that decodes is the word of the instruction it decodes to, so no bit of it is dropped (with
`StrictEncoding` true, log 10), and that instruction is well-formed. The field layouts of Control and Graphics are the
spec's repairs (log 13), and `GLOD.i` has no word (decision D4, log 14). -/
def Obligations.EncodeOfDecode : Prop :=
  ∀ (w : Word) (i : Instr), decode w = .ok i → encode i = some w ∧ i.wellFormed = true

/-- 30_encoding R104, R110: the words the tables leave undefined, by class. That `Graphics` has a 3-bit operation field is
decision D3 (log 13) and that its operation 2 is refused as unencodable decision D4 (log 14), as the unused bits of the
Control and Graphics formats are the spec's repairs (log 13). The last four clauses, the non-null condition of a non-jump
and the non-zero unused bits, rest on `StrictEncoding` true (log 10). That reserved operations and invalid conditions are
refused is decision D16 (log 32). -/
def Obligations.UndefinedWordsRefused : Prop :=
  ∀ w : Word,
    (field w 5 2 = 0b01#2 → 32 < (field w 7 6).toNat → decode w = .error .reservedEncoding) ∧
    (field w 5 2 = 0b10#2 → 5 < (field w 7 3).toNat → decode w = .error .reservedEncoding) ∧
    (field w 5 2 = 0b00#2 → 5 < (field w 7 3).toNat → decode w = .error .reservedEncoding) ∧
    (field w 5 2 = 0b11#2 → field w 7 3 = 0#3 → decode w = .error .reservedEncoding) ∧
    (field w 5 2 = 0b11#2 → field w 7 3 = 2#3 → decode w = .error .unencodableGlodImmediate) ∧
    (field w 5 2 = 0b00#2 → 1 ≤ (field w 7 3).toNat → (field w 7 3).toNat ≤ 5 → InvalidCode (condField w) →
      decode w = .error .invalidConditionCode) ∧
    (field w 5 2 ≠ 0b00#2 → condField w ≠ 0#5 → ∃ r, decode w = .error r) ∧
    (field w 5 2 = 0b00#2 → field w 7 3 = 0#3 → w ≠ 0#32 → decode w = .error .reservedEncoding) ∧
    (∀ i, selectRow w = .ok i → i.usesCond = false → condField w ≠ 0#5 → decode w = .error .reservedEncoding) ∧
    (∀ i, selectRow w = .ok i → w &&& i.unusedBits ≠ 0#32 → decode w = .error .reservedEncoding)

/-- 30_encoding R94..R103, 10_state R20: at least one word written out from the formats for every row that has an encoding,
the fourteen of 95_test_vectors section 7 first (one for each format), and at the end words that name `R26`..`R31`. The
field layouts of the Control and Graphics words are the spec's own repairs D2 and D3 (log 13). -/
def Obligations.FormatWordsDecode : Prop :=
  decode 0x010460A0#32 = .ok (.addsReg (.gpr 3) (.gpr 1) (.gpr 2)) ∧
  decode 0xFF8461A0#32 = .ok (.addsImm (.gpr 3) (.gpr 1) 0x1FF#9) ∧
  decode 0x000828A0#32 = .ok (.cmp (.gpr 1) (.gpr 2)) ∧
  decode 0xFFFC8A20#32 = .ok (.aslImm (.gpr 4) 0x3FFF#14) ∧
  decode 0x00010440#32 = .ok (.ldrReg (.gpr 1) (.gpr 2)) ∧
  decode 0xFFFD08C0#32 = .ok (.ldrImm (.gpr 2) 0x1FFFA#17) ∧
  decode 0x00007E40#32 = .ok (.push .lr) ∧
  decode 0x00000282#32 = .ok (.jmpi .e) ∧
  decode 0x00001082#32 = .ok (.jmpReg .e (.gpr 4)) ∧
  decode 0xFFFFF503#32 = .ok (.jmpImm .gt 0x3FFFFD#22) ∧
  decode 0x007314E0#32 = .ok (.glodReg (.gpr 5) (.gpr 6) (.gpr 7)) ∧
  decode 0x0004A360#32 = .ok (.blitReg (.gpr 8) (.gpr 9)) ∧
  decode 0x001042E0#32 = .ok (.blitdimsImm 16#7 8#7) ∧
  decode 0x00381BE0#32 = .ok (.blitImm 6#4 0xE0#8) ∧
  decode 0x01046020#32 = .ok (.adduReg (.gpr 3) (.gpr 1) (.gpr 2)) ∧
  decode 0x02846120#32 = .ok (.adduImm (.gpr 3) (.gpr 1) 5#9) ∧
  decode 0x01046220#32 = .ok (.subuReg (.gpr 3) (.gpr 1) (.gpr 2)) ∧
  decode 0x010462A0#32 = .ok (.subsReg (.gpr 3) (.gpr 1) (.gpr 2)) ∧
  decode 0x00842320#32 = .ok (.subuImm (.gpr 1) (.gpr 1) 1#9) ∧
  decode 0xFF0463A0#32 = .ok (.subsImm (.gpr 3) (.gpr 1) 0x1FE#9) ∧
  decode 0x01046420#32 = .ok (.mltuReg (.gpr 3) (.gpr 1) (.gpr 2)) ∧
  decode 0x010464A0#32 = .ok (.mltsReg (.gpr 3) (.gpr 1) (.gpr 2)) ∧
  decode 0x05046520#32 = .ok (.mltuImm (.gpr 3) (.gpr 1) 10#9) ∧
  decode 0xFE8465A0#32 = .ok (.mltsImm (.gpr 3) (.gpr 1) 0x1FD#9) ∧
  decode 0x01046620#32 = .ok (.divuReg (.gpr 3) (.gpr 1) (.gpr 2)) ∧
  decode 0x010466A0#32 = .ok (.divsReg (.gpr 3) (.gpr 1) (.gpr 2)) ∧
  decode 0x03846720#32 = .ok (.divuImm (.gpr 3) (.gpr 1) 7#9) ∧
  decode 0xFF0467A0#32 = .ok (.divsImm (.gpr 3) (.gpr 1) 0x1FE#9) ∧
  decode 0x0018A820#32 = .ok (.mv (.gpr 5) (.gpr 6)) ∧
  decode 0x001C8920#32 = .ok (.aslReg (.gpr 4) (.gpr 7)) ∧
  decode 0x001C89A0#32 = .ok (.asrReg (.gpr 4) (.gpr 7)) ∧
  decode 0x00108AA0#32 = .ok (.asrImm (.gpr 4) 4#14) ∧
  decode 0x001C8B20#32 = .ok (.lslReg (.gpr 4) (.gpr 7)) ∧
  decode 0x00208BA0#32 = .ok (.lslImm (.gpr 4) 8#14) ∧
  decode 0x001C8C20#32 = .ok (.lsrReg (.gpr 4) (.gpr 7)) ∧
  decode 0x00808CA0#32 = .ok (.lsrImm (.gpr 4) 32#14) ∧
  decode 0x01046D20#32 = .ok (.andReg (.gpr 3) (.gpr 1) (.gpr 2)) ∧
  decode 0x07846DA0#32 = .ok (.andImm (.gpr 3) (.gpr 1) 0x0F#9) ∧
  decode 0x01046E20#32 = .ok (.orReg (.gpr 3) (.gpr 1) (.gpr 2)) ∧
  decode 0x80046EA0#32 = .ok (.orImm (.gpr 3) (.gpr 1) 0x100#9) ∧
  decode 0x01046F20#32 = .ok (.xorReg (.gpr 3) (.gpr 1) (.gpr 2)) ∧
  decode 0xFF846FA0#32 = .ok (.xorImm (.gpr 3) (.gpr 1) 0x1FF#9) ∧
  decode 0x00047020#32 = .ok (.notReg (.gpr 3) (.gpr 1)) ∧
  decode 0x00010540#32 = .ok (.strReg (.gpr 1) (.gpr 2)) ∧
  decode 0x000E05C0#32 = .ok (.strImm (.gpr 1) 28#17) ∧
  decode 0x00000AC0#32 = .ok (.pop (.gpr 2)) ∧
  decode 0x00000000#32 = .ok .halt ∧
  decode 0x00001180#32 = .ok (.jmpsReg .ns (.gpr 4)) ∧
  decode 0x00000E04#32 = .ok (.jmpsImm .lt 3#22) ∧
  decode 0x000201E0#32 = .ok (.blitmem (.gpr 0) (.gpr 4)) ∧
  decode 0x00018E60#32 = .ok (.blitdimsReg (.gpr 3) (.gpr 3)) ∧
  decode 0x00682820#32 = .ok (.mv (.gpr 1) .intlr) ∧
  decode 0x00076820#32 = .ok (.mv .ihdlr (.gpr 1)) ∧
  decode 0x00702820#32 = .ok (.mv (.gpr 1) .pc) ∧
  decode 0x00742820#32 = .ok (.mv (.gpr 1) .sts) ∧
  decode 0x00007A40#32 = .ok (.push .sp) ∧
  decode 0x00007C80#32 = .ok (.jmpReg .ns .lr) ∧
  decode 0x00007D80#32 = .ok (.jmpsReg .ns .lr) ∧
  decode 0x00034820#32 = .ok (.mv .intlr (.gpr 0)) ∧
  decode 0x0003A820#32 = .ok (.mv .sts (.gpr 0))

/-- 30_encoding R123, R124, 10_state R31: the thirteen prefixes of the jumps, the bare mnemonics first, written out, each with
the code of the condition it names, and with every operand form. The spelling is the spec's decision D27, log 25. -/
def Obligations.JumpMnemonicsNameTheirCondition : Prop :=
  SpellsJumps "JMP" "JMPS" "JMPI" .ns 0#5 ∧
  SpellsJumps "NSJMP" "NSJMPS" "NSJMPI" .ns 0#5 ∧
  SpellsJumps "NEJMP" "NEJMPS" "NEJMPI" .ne 1#5 ∧
  SpellsJumps "EJMP" "EJMPS" "EJMPI" .e 2#5 ∧
  SpellsJumps "GTJMP" "GTJMPS" "GTJMPI" .gt 3#5 ∧
  SpellsJumps "LTJMP" "LTJMPS" "LTJMPI" .lt 4#5 ∧
  SpellsJumps "GTEJMP" "GTEJMPS" "GTEJMPI" .gte 5#5 ∧
  SpellsJumps "LTEJMP" "LTEJMPS" "LTEJMPI" .lte 7#5 ∧
  SpellsJumps "OFJMP" "OFJMPS" "OFJMPI" .of 8#5 ∧
  SpellsJumps "ZJMP" "ZJMPS" "ZJMPI" .z 9#5 ∧
  SpellsJumps "NZJMP" "NZJMPS" "NZJMPI" .nz 10#5 ∧
  SpellsJumps "NEGJMP" "NEGJMPS" "NEGJMPI" .neg 11#5 ∧
  SpellsJumps "POSJMP" "POSJMPS" "POSJMPI" .pos 12#5

/-! The step. -/

/-- 20_memory R74, 60_exceptions R256: where the word at `pc` decodes to a well-formed instruction, a step of a running
machine executes it, unless the key tape has an event at its head, which is then examined first; the tape moves on by one
entry (the tape is the model's, log 15). That an event is examined only between two instructions is decision D14 (log 21).
-/
def Obligations.StepRunsDecodedInstruction : Prop :=
  ∀ (s : State) (i : Instr), s.halted = false → decode (s.memRead s.pc) = .ok i → i.wellFormed = true →
    (s.keyTape = [] → step s = exec i s) ∧
    (∀ tape, s.keyTape = none :: tape → step s = exec i (s.withKeyTape tape)) ∧
    (∀ k tape, s.keyTape = some k :: tape → step s = .next (keyEvent k (s.withKeyTape tape)))

/-- 30_encoding R112, 20_memory R74: a word that decodes to no instruction has no step; the refusal carries the decoder's
reason. That such a word is refused is decision D16 (log 32); the key tape is the model's (log 15). -/
def Obligations.UndecodableWordHasNoStep : Prop :=
  ∀ (s : State) (r : DecodeRefusal), s.halted = false → nextKey s = none → decode (s.memRead s.pc) = .error r →
    step s = .refused (decodeRefusal r)

/-- 42_control R201, 10_state R41: a halted machine fetches nothing, takes no interrupt and changes no state. That its
step answers the same state is the model's choice, log 16. That no interrupt is taken after `HALT` is decision D23 (log
26). -/
def Obligations.HaltedMachineKeepsState : Prop :=
  ∀ s : State, s.halted = true → step s = .next s

/-! Reset, the loader, memory and registers. -/

/-- 10_state R44: the values the spec gives for reset (the Blitter's registers are the model's choice, log 4, and no part of
this). -/
def Obligations.ResetValues : Prop :=
  (∀ n, readReg State.reset (.gpr n) = 0#32) ∧ State.reset.intlr = 0#32 ∧ State.reset.ihdlr = 0xFFFFFFFF#32 ∧
  State.reset.pc = 0#32 ∧ State.reset.cc = Cond.code .ns ∧ State.reset.iflag = false ∧ State.reset.sp = 0#32 ∧
  State.reset.lr = 0#32 ∧ State.reset.halted = false

/-- The memories of the reset state are in canonical form (the model's form, log 1). -/
def Obligations.ResetMemoriesCanonical : Prop := State.reset.memoriesWf = true

/-- Every step from any state with canonical memories gives one: addresses stay strictly rising and within the 2^32 words,
2^12 and 2^16 bytes of 10_state R37..R39 (the form is the model's, log 1). The sizes of main memory and sprite library are
decisions D26 and D25 (log 31). -/
def Obligations.StepKeepsMemoriesCanonical : Prop :=
  ∀ s t : State, s.memoriesWf = true → step s = .next t → t.memoriesWf = true

/-- 20_memory R75, R76, 10_state R44: a file of whole words starts a run in which file bytes `4k..4k+3` are the word at
address `k`, least significant first, every other byte of main memory holds no known value and the rest is as at reset; a
file of any other length is refused (decision D32). Files longer than main memory are not in it. The layout of the file
and the refusal are decision D32 (log 29), its byte order is log 2, the unknown contents are decision D19 (log 1). -/
def Obligations.LoaderPlacesFileWords : Prop :=
  ∀ file : List Byte,
    (file.length % 4 = 0 → file.length ≤ 2 ^ 34 →
      ∃ t, loadBinary file = .next t ∧
        (∀ k : Nat, ∀ h : 4 * k + 3 < file.length,
          t.memRead (BitVec.ofNat 32 k) = file[4 * k + 3] ++ file[4 * k + 2] ++ file[4 * k + 1] ++ file[4 * k]) ∧
        (∀ a, file.length ≤ a → t.mainByte a = Config.initMain a) ∧
        t.withMain [] = State.reset) ∧
    (file.length % 4 ≠ 0 → loadBinary file = .refused .fileLengthNotMultipleOfFour)

/-- 20_memory R63, R75: the binary file of a list of words loads back to those words from address 0 on. The layout of the
file is decision D32 (log 29), its byte order is log 2. -/
def Obligations.BinaryOfWordsLoadsBack : Prop :=
  ∀ ws : List Word, ws.length ≤ 2 ^ 32 →
    ∃ t, loadBinary (binaryOf ws) = .next t ∧
      ∀ k : Nat, ∀ h : k < ws.length, t.memRead (BitVec.ofNat 32 k) = ws[k]

/-- 20_memory R70, R72: a load, and an instruction fetch, gives the word of the most recent store to that address and is
not changed by a store to another. That memory is sequential and fetch coherent is the spec's decision, D17 and D18,
log 32. -/
def Obligations.StoreThenLoad : Prop :=
  ∀ (s : State) (a b v : Word),
    (s.memWrite a v).memRead b = (if a = b then v else s.memRead b) ∧
    fetch ((s.memWrite a v).withPc b) = (if a = b then v else fetch (s.withPc b))

/-- 10_state R27, R28: what each register number reads as, and that a written register reads as written (R29 as its low six
bits, zero-extended) while every other reads as before (decision D12, log 19). -/
def Obligations.RegisterReadAndWrite : Prop :=
  (∀ (s : State) (n : Fin 26), readReg s (.gpr n) = s.gpr[n]) ∧
  (∀ s : State, readReg s .intlr = s.intlr ∧ readReg s .ihdlr = s.ihdlr ∧ readReg s .pc = s.pc ∧
    readReg s .sts = s.sts.setWidth 32 ∧ readReg s .sp = s.sp ∧ readReg s .lr = s.lr) ∧
  (∀ (s : State) (r r' : Reg) (v : Word),
    readReg (writeReg s r v) r' =
      if r' = r then (if r = .sts then (v.setWidth 6).setWidth 32 else v) else readReg s r')

/-- 10_state R28 (`PcDest` at the spec's default, log 9): an ALU instruction, load or `POP` whose destination is R28 has
no step; a divide or shift may be refused earlier for its operands. The refusals for operands are log 7 and log 8. -/
def Obligations.NonJumpCannotWritePc : Prop :=
  ∀ (i : Instr) (s : State), i.dest = some .pc →
    ∃ r, exec i s = .refused r ∧
      (r = .pcAsDestination ∨
        (i.isDivide = true ∧ (r = .divisionByZero ∨ r = .signedDivisionOverflow)) ∨
        (i.isShift = true ∧ r = .shiftAmountOutOfRange))

/-- 30_encoding R98: every ALU, Memory and Control immediate is sign-extended, and so is the source of `GLOD`
immediate (decision D11, log 23). -/
def Obligations.ImmediatesSignExtended : Prop :=
  (∀ v : BitVec 9, (sext32 v).toInt = v.toInt) ∧ (∀ v : BitVec 14, (sext32 v).toInt = v.toInt) ∧
  (∀ v : BitVec 17, (sext32 v).toInt = v.toInt) ∧ (∀ v : BitVec 22, (sext32 v).toInt = v.toInt) ∧
  (∀ v : BitVec 10, (sext32 v).toInt = v.toInt)

/-! Arithmetic, ALU operations 0..15. -/

/-- 40_alu R131..R136: the four additions write the sum modulo 2^32 (log 22) and leave `STS.CC` a free value (log 3). The
immediate, sign-extended in the unsigned form too, is decision D11 (log 23). R26 to R31 as operands are decision D12 (log
19). R28 as destination is `NonJumpCannotWritePc` (log 9). -/
def Obligations.AdditionsWriteTheSum : Prop :=
  ∀ (s : State) (ra rb rc : Reg) (imm9 : BitVec 9), ra ≠ .pc →
    (∃ t, exec (.adduReg ra rb rc) s = .next t ∧ ArithResult s t ra (readReg s rb + readReg s rc)) ∧
    (∃ t, exec (.addsReg ra rb rc) s = .next t ∧ ArithResult s t ra (readReg s rb + readReg s rc)) ∧
    (∃ t, exec (.adduImm ra rb imm9) s = .next t ∧ ArithResult s t ra (readReg s rb + sext32 imm9)) ∧
    (∃ t, exec (.addsImm ra rb imm9) s = .next t ∧ ArithResult s t ra (readReg s rb + sext32 imm9))

/-- 40_alu R131, R132, R137..R140: the four subtractions write the difference modulo 2^32 (log 22) and leave `STS.CC` a
free value (log 3). The immediate, sign-extended in the unsigned form too, is decision D11 (log 23). R26 to R31 as
operands are decision D12 (log 19). R28 as destination is `NonJumpCannotWritePc` (log 9). -/
def Obligations.SubtractionsWriteTheDifference : Prop :=
  ∀ (s : State) (ra rb rc : Reg) (imm9 : BitVec 9), ra ≠ .pc →
    (∃ t, exec (.subuReg ra rb rc) s = .next t ∧ ArithResult s t ra (readReg s rb - readReg s rc)) ∧
    (∃ t, exec (.subsReg ra rb rc) s = .next t ∧ ArithResult s t ra (readReg s rb - readReg s rc)) ∧
    (∃ t, exec (.subuImm ra rb imm9) s = .next t ∧ ArithResult s t ra (readReg s rb - sext32 imm9)) ∧
    (∃ t, exec (.subsImm ra rb imm9) s = .next t ∧ ArithResult s t ra (readReg s rb - sext32 imm9))

/-- 40_alu R131, R132, R141..R144: the four multiplications write the low 32 bits of the exact product, which for the
signed forms is the product of the signed values (log 22), and leave `STS.CC` a free value (log 3). The immediate,
sign-extended in the unsigned form too, is decision D11 (log 23). R26 to R31 as operands are decision D12 (log 19). R28 as
destination is `NonJumpCannotWritePc` (log 9). -/
def Obligations.MultiplicationsWriteTheLowProduct : Prop :=
  ∀ (s : State) (ra rb rc : Reg) (imm9 : BitVec 9), ra ≠ .pc →
    (∃ t, exec (.mltuReg ra rb rc) s = .next t ∧
      ArithResult s t ra (BitVec.ofNat 32 ((readReg s rb).toNat * (readReg s rc).toNat))) ∧
    (∃ t, exec (.mltsReg ra rb rc) s = .next t ∧
      ArithResult s t ra (BitVec.ofInt 32 ((readReg s rb).toInt * (readReg s rc).toInt))) ∧
    (∃ t, exec (.mltuImm ra rb imm9) s = .next t ∧
      ArithResult s t ra (BitVec.ofNat 32 ((readReg s rb).toNat * (sext32 imm9).toNat))) ∧
    (∃ t, exec (.mltsImm ra rb imm9) s = .next t ∧
      ArithResult s t ra (BitVec.ofInt 32 ((readReg s rb).toInt * imm9.toInt)))

/-- 40_alu R132, R145, R147, R167: an unsigned division by a non-zero divisor writes the quotient rounded down and leaves
`STS.CC` a free value (log 3). The immediate, sign-extended in the unsigned form too, is decision D11 (log 23). Rounding
down is decision D8 (log 6); a zero divisor is `DivisionCornersRefused` (log 7). R26 to R31 as operands are decision D12
(log 19). R28 as destination is `NonJumpCannotWritePc` (log 9). -/
def Obligations.UnsignedDivisionsRoundDown : Prop :=
  ∀ (s : State) (ra rb rc : Reg) (imm9 : BitVec 9), ra ≠ .pc →
    (readReg s rc ≠ 0#32 → ∃ t q, exec (.divuReg ra rb rc) s = .next t ∧ ArithResult s t ra q ∧
      q.toNat = (readReg s rb).toNat / (readReg s rc).toNat) ∧
    (imm9 ≠ 0#9 → ∃ t q, exec (.divuImm ra rb imm9) s = .next t ∧ ArithResult s t ra q ∧
      q.toNat = (readReg s rb).toNat / (sext32 imm9).toNat)

/-- 40_alu R132, R146, R148, R167: a signed division with a non-zero divisor, other than `-2^31 / -1`, writes the quotient
rounded toward zero (`SDivRound` at the spec's default, log 6) and leaves `STS.CC` a free value (log 3). The sign
extension of the immediate is decision D11 (log 23). The refused operands are `DivisionCornersRefused` (log 7). R26 to R31
as operands are decision D12 (log 19). R28 as destination is `NonJumpCannotWritePc` (log 9). -/
def Obligations.SignedDivisionsTruncate : Prop :=
  ∀ (s : State) (ra rb rc : Reg) (imm9 : BitVec 9), ra ≠ .pc →
    (readReg s rc ≠ 0#32 → ¬ (readReg s rb = 0x80000000#32 ∧ readReg s rc = 0xFFFFFFFF#32) →
      ∃ t q, exec (.divsReg ra rb rc) s = .next t ∧ ArithResult s t ra q ∧
        q.toInt = (readReg s rb).toInt.tdiv (readReg s rc).toInt) ∧
    (imm9 ≠ 0#9 → ¬ (readReg s rb = 0x80000000#32 ∧ imm9 = 0x1FF#9) →
      ∃ t q, exec (.divsImm ra rb imm9) s = .next t ∧ ArithResult s t ra q ∧
        q.toInt = (readReg s rb).toInt.tdiv imm9.toInt)

/-- 40_alu R145..R148, R167 (`DivCorner` at the spec's default, log 7): a zero divisor, and `-2^31 / -1` signed, have no
step. The sign extension of the immediate is decision D11 (log 23). R26 to R31 as operands are decision D12 (log 19). -/
def Obligations.DivisionCornersRefused : Prop :=
  ∀ (s : State) (ra rb rc : Reg),
    (readReg s rc = 0#32 → exec (.divuReg ra rb rc) s = .refused .divisionByZero ∧
      exec (.divsReg ra rb rc) s = .refused .divisionByZero) ∧
    exec (.divuImm ra rb 0#9) s = .refused .divisionByZero ∧
    exec (.divsImm ra rb 0#9) s = .refused .divisionByZero ∧
    (readReg s rb = 0x80000000#32 → readReg s rc = 0xFFFFFFFF#32 →
      exec (.divsReg ra rb rc) s = .refused .signedDivisionOverflow) ∧
    (readReg s rb = 0x80000000#32 → exec (.divsImm ra rb 0x1FF#9) s = .refused .signedDivisionOverflow)

/-! Compare, move, shifts, logic. -/

/-- 40_alu R149: `CMP` stores `E`, `LT` or `GT` in `STS.CC` and changes nothing else but `pc` (decision D6; `CmpSigned` at
the spec's default, unsigned, log 5). R26 to R31 as operands are decision D12 (log 19). -/
def Obligations.CmpStoresTheRelation : Prop :=
  ∀ (s : State) (ra rb : Reg), ∃ t, exec (.cmp ra rb) s = .next t ∧
    t.cc = (if readReg s ra = readReg s rb then Cond.code .e
      else if (readReg s ra).toNat < (readReg s rb).toNat then Cond.code .lt else Cond.code .gt) ∧
    t.iflag = s.iflag ∧ t.pc = s.pc + 1 ∧ t.freeDraws = s.freeDraws ∧ OnlyRegsWritten [.sts] s t

/-- 40_alu R150: `MV` copies the source register to the destination (special registers as operands: log 19). R28 as
destination is `NonJumpCannotWritePc` (log 9). -/
def Obligations.MvCopiesTheSource : Prop :=
  ∀ (s : State) (ra rb : Reg), ra ≠ .pc →
    ∃ t, exec (.mv ra rb) s = .next t ∧ RegisterResult s t ra (readReg s rb)

/-- 40_alu R151, R152, R154, R156, R157: an arithmetic and a logical shift left by 0..31 (that the two are the same is
from general knowledge, log 24). The amount, the whole register or the sign-extended immediate, is decisions D10 and D11
(log 8, log 23); 32 and more is `ShiftsOutOfRangeRefused`. R26 to R31 as operands are decision D12 (log 19). R28 as
destination is `NonJumpCannotWritePc` (log 9). -/
def Obligations.LeftShiftsMoveTheBits : Prop :=
  ∀ (s : State) (ra rb : Reg) (imm14 : BitVec 14), ra ≠ .pc →
    ((readReg s rb).toNat < 32 →
      (∃ t v, exec (.aslReg ra rb) s = .next t ∧ RegisterResult s t ra v ∧
        ShiftedLeft v (readReg s ra) (readReg s rb).toNat) ∧
      (∃ t v, exec (.lslReg ra rb) s = .next t ∧ RegisterResult s t ra v ∧
        ShiftedLeft v (readReg s ra) (readReg s rb).toNat)) ∧
    (imm14.toNat < 32 →
      (∃ t v, exec (.aslImm ra imm14) s = .next t ∧ RegisterResult s t ra v ∧
        ShiftedLeft v (readReg s ra) imm14.toNat) ∧
      (∃ t v, exec (.lslImm ra imm14) s = .next t ∧ RegisterResult s t ra v ∧
        ShiftedLeft v (readReg s ra) imm14.toNat))

/-- 40_alu R151, R158, R159: a logical shift right by 0..31. The amount, the whole register or the sign-extended
immediate, is decisions D10 and D11 (log 8, log 23); 32 and more is `ShiftsOutOfRangeRefused`. R26 to R31 as operands are
decision D12 (log 19). R28 as destination is `NonJumpCannotWritePc` (log 9). -/
def Obligations.LogicalRightShiftsMoveTheBits : Prop :=
  ∀ (s : State) (ra rb : Reg) (imm14 : BitVec 14), ra ≠ .pc →
    ((readReg s rb).toNat < 32 → ∃ t v, exec (.lsrReg ra rb) s = .next t ∧ RegisterResult s t ra v ∧
      ShiftedRight v (readReg s ra) (readReg s rb).toNat) ∧
    (imm14.toNat < 32 → ∃ t v, exec (.lsrImm ra imm14) s = .next t ∧ RegisterResult s t ra v ∧
      ShiftedRight v (readReg s ra) imm14.toNat)

/-- 40_alu R151, R153, R155: an arithmetic shift right by 0..31 fills with bit 31 (log 24). The amount, the whole register
or the sign-extended immediate, is decisions D10 and D11 (log 8, log 23); 32 and more is `ShiftsOutOfRangeRefused`. R26 to
R31 as operands are decision D12 (log 19). R28 as destination is `NonJumpCannotWritePc` (log 9). -/
def Obligations.ArithmeticRightShiftsKeepTheSign : Prop :=
  ∀ (s : State) (ra rb : Reg) (imm14 : BitVec 14), ra ≠ .pc →
    ((readReg s rb).toNat < 32 → ∃ t v, exec (.asrReg ra rb) s = .next t ∧ RegisterResult s t ra v ∧
      ShiftedRightSigned v (readReg s ra) (readReg s rb).toNat) ∧
    (imm14.toNat < 32 → ∃ t v, exec (.asrImm ra imm14) s = .next t ∧ RegisterResult s t ra v ∧
      ShiftedRightSigned v (readReg s ra) imm14.toNat)

/-- 40_alu R151 (`ShiftRange` at the spec's default, log 8): an amount of 32 or more, which every negative immediate is,
has no step. The amount, the whole register or the sign-extended immediate, is decisions D10 and D11 (log 23). R26 to R31
as operands are decision D12 (log 19). -/
def Obligations.ShiftsOutOfRangeRefused : Prop :=
  ∀ (s : State) (ra rb : Reg) (imm14 : BitVec 14),
    (32 ≤ (readReg s rb).toNat →
      exec (.aslReg ra rb) s = .refused .shiftAmountOutOfRange ∧
      exec (.asrReg ra rb) s = .refused .shiftAmountOutOfRange ∧
      exec (.lslReg ra rb) s = .refused .shiftAmountOutOfRange ∧
      exec (.lsrReg ra rb) s = .refused .shiftAmountOutOfRange) ∧
    (32 ≤ imm14.toNat →
      exec (.aslImm ra imm14) s = .refused .shiftAmountOutOfRange ∧
      exec (.asrImm ra imm14) s = .refused .shiftAmountOutOfRange ∧
      exec (.lslImm ra imm14) s = .refused .shiftAmountOutOfRange ∧
      exec (.lsrImm ra imm14) s = .refused .shiftAmountOutOfRange)

/-- 40_alu R160, R162, R164, whole: `AND.r`, `OR.r` and `XOR.r` with their assembly, encoding, effect, corner cases and
examples. R26 to R31 as operands, R29 as a destination taking the low six bits of the result, are decision D12 (log 19);
the spelling of the mnemonics is decision D27 (log 25); R28 as destination is `NonJumpCannotWritePc` (log 9). -/
def Obligations.RegisterLogicWritesTheResult : Prop :=
  (∀ ra rb rc : Reg,
    assembleOperation "AND".toList [.reg ra, .reg rb, .reg rc] = .ok (.andReg ra rb rc) ∧
    assembleOperation "OR".toList [.reg ra, .reg rb, .reg rc] = .ok (.orReg ra rb rc) ∧
    assembleOperation "XOR".toList [.reg ra, .reg rb, .reg rc] = .ok (.xorReg ra rb rc) ∧
    encode (.andReg ra rb rc) = some (formatARRR 26#6 ra rb rc) ∧
    encode (.orReg ra rb rc) = some (formatARRR 28#6 ra rb rc) ∧
    encode (.xorReg ra rb rc) = some (formatARRR 30#6 ra rb rc)) ∧
  (∀ (s : State) (ra rb rc : Reg), ra ≠ .pc →
    (∃ t, exec (.andReg ra rb rc) s = .next t ∧ RegisterResult s t ra (readReg s rb &&& readReg s rc) ∧
      (rb = rc → RegisterResult s t ra (readReg s rb))) ∧
    (∃ t, exec (.orReg ra rb rc) s = .next t ∧ RegisterResult s t ra (readReg s rb ||| readReg s rc)) ∧
    (∃ t, exec (.xorReg ra rb rc) s = .next t ∧ RegisterResult s t ra (readReg s rb ^^^ readReg s rc) ∧
      (rb = rc → RegisterResult s t ra 0#32))) ∧
  encode (.andReg (.gpr 3) (.gpr 1) (.gpr 2)) = some 0x01046D20#32 ∧
  encode (.orReg (.gpr 3) (.gpr 1) (.gpr 2)) = some 0x01046E20#32 ∧
  encode (.xorReg (.gpr 3) (.gpr 1) (.gpr 2)) = some 0x01046F20#32 ∧
  (∀ s : State, readReg s (.gpr 1) = 0x0000FF0F#32 → readReg s (.gpr 2) = 0x00000FF0#32 →
    (∃ t, exec (.andReg (.gpr 3) (.gpr 1) (.gpr 2)) s = .next t ∧ readReg t (.gpr 3) = 0x00000F00#32) ∧
    (∃ t, exec (.xorReg (.gpr 3) (.gpr 1) (.gpr 2)) s = .next t ∧ readReg t (.gpr 3) = 0x0000F0FF#32)) ∧
  (∀ s : State, readReg s (.gpr 1) = 0x0000FF00#32 → readReg s (.gpr 2) = 0x000000FF#32 →
    ∃ t, exec (.orReg (.gpr 3) (.gpr 1) (.gpr 2)) s = .next t ∧ readReg t (.gpr 3) = 0x0000FFFF#32)

/-- 40_alu R161, R163, R165: `AND.i`, `OR.i` and `XOR.i` with the sign-extended immediate (log 23). R26 to R31 as operands
are decision D12 (log 19). R28 as destination is `NonJumpCannotWritePc` (log 9). -/
def Obligations.ImmediateLogicWritesTheResult : Prop :=
  ∀ (s : State) (ra rb : Reg) (imm9 : BitVec 9), ra ≠ .pc →
    (∃ t, exec (.andImm ra rb imm9) s = .next t ∧ RegisterResult s t ra (readReg s rb &&& imm9.signExtend 32)) ∧
    (∃ t, exec (.orImm ra rb imm9) s = .next t ∧ RegisterResult s t ra (readReg s rb ||| imm9.signExtend 32)) ∧
    (∃ t, exec (.xorImm ra rb imm9) s = .next t ∧ RegisterResult s t ra (readReg s rb ^^^ imm9.signExtend 32) ∧
      (imm9 = 0x1FF#9 → RegisterResult s t ra (~~~ readReg s rb)))

/-- 40_alu R166, whole: `NOT`, with its assembly, encoding, effect, corner cases and example. R26 to R31 as operands,
R29 as a destination taking the low six bits of the result, are decision D12 (log 19); R28 as destination is
`NonJumpCannotWritePc` (log 9). -/
def Obligations.NotInvertsEveryBit : Prop :=
  (∀ ra rb : Reg, assembleOperation "NOT".toList [.reg ra, .reg rb] = .ok (.notReg ra rb) ∧
    encode (.notReg ra rb) = some (formatARR 32#6 ra rb) ∧ field (formatARR 32#6 ra rb) 23 9 = 0#9) ∧
  (∀ (s : State) (ra rb : Reg), ra ≠ .pc →
    ∃ t, exec (.notReg ra rb) s = .next t ∧ RegisterResult s t ra (~~~ readReg s rb) ∧
      (ra ≠ .sts → readReg s rb = 0#32 → readReg t ra = codeAddress) ∧
      (ra ≠ .sts → rb = .sts → ∀ i, 6 ≤ i → i < 32 → (readReg t ra).getLsbD i = true)) ∧
  encode (.notReg (.gpr 3) (.gpr 1)) = some 0x00047020#32 ∧
  (∀ s : State, readReg s (.gpr 1) = 0x0000FFFF#32 →
    ∃ t, exec (.notReg (.gpr 3) (.gpr 1)) s = .next t ∧ readReg t (.gpr 3) = 0xFFFF0000#32)

/-! Memory instructions. -/

/-- 41_memory_instructions R182, whole: `LDR.r` with its assembly, encoding, effect, corner cases and example. R26
to R31 as operands, R29 as a destination taking the low six bits of the word, are decision D12 (log 19); R28 as
destination is `NonJumpCannotWritePc` (log 9). -/
def Obligations.LdrRegLoadsTheAddressedWord : Prop :=
  (∀ ra rb : Reg, assembleOperation "LDR".toList [.reg ra, .reg rb] = .ok (.ldrReg ra rb) ∧
    encode (.ldrReg ra rb) = some (formatMRR 0#3 ra rb) ∧
    field (formatMRR 0#3 ra rb) 10 5 = ra.num ∧ field (formatMRR 0#3 ra rb) 15 5 = rb.num ∧
    field (formatMRR 0#3 ra rb) 20 12 = 0#12) ∧
  (∀ (s : State) (ra rb : Reg), ra ≠ .pc →
    ∃ t, exec (.ldrReg ra rb) s = .next t ∧ RegisterResult s t ra (s.memRead (readReg s rb)) ∧
      (readReg s rb = codeAddress → RegisterResult s t ra (s.memRead codeAddress)) ∧
      (rb = .pc → RegisterResult s t ra (fetch s))) ∧
  encode (.ldrReg (.gpr 1) (.gpr 2)) = some 0x00010440#32 ∧
  (∀ s : State, readReg s (.gpr 2) = 100#32 → s.memRead 100#32 = 0xDEADBEEF#32 →
    ∃ t, exec (.ldrReg (.gpr 1) (.gpr 2)) s = .next t ∧ readReg t (.gpr 1) = 0xDEADBEEF#32)

/-- 41_memory_instructions R181, R183: `LDR.i` loads the word at `pc + 1 + sext_32(imm17)` modulo 2^32 (log 22). The sign
extension of the immediate is decision D11 (log 23). R26 to R31 as operands are decision D12 (log 19). R28 as destination
is `NonJumpCannotWritePc` (log 9). -/
def Obligations.LdrImmLoadsRelativeToTheNextWord : Prop :=
  ∀ (s : State) (ra : Reg) (imm17 : BitVec 17), ra ≠ .pc →
    ∃ t, exec (.ldrImm ra imm17) s = .next t ∧
      RegisterResult s t ra (s.memRead (s.pc + 1 + imm17.signExtend 32)) ∧
      (imm17 = 0x1FFFF#17 → RegisterResult s t ra (fetch s))

/-- 41_memory_instructions R184, whole: `STR.r` with its assembly, encoding, effect, corner cases and example. That memory
is sequential and the next fetch reads the stored word are decisions D17 and D18 (log 32); R26 to R31, with R28 and R29, as
operands are decision D12 (log 19). -/
def Obligations.StrRegStoresAtTheAddress : Prop :=
  (∀ ra rb : Reg, assembleOperation "STR".toList [.reg ra, .reg rb] = .ok (.strReg ra rb) ∧
    encode (.strReg ra rb) = some (formatMRR 2#3 ra rb) ∧ field (formatMRR 2#3 ra rb) 20 12 = 0#12) ∧
  (∀ (s : State) (ra rb : Reg),
    ∃ t, exec (.strReg ra rb) s = .next t ∧ t.memRead (readReg s rb) = readReg s ra ∧
      OnlyWordWritten [] (readReg s rb) s t ∧ t.pc = s.pc + 1 ∧
      (ra = rb → t.memRead (readReg s ra) = readReg s ra) ∧
      (readReg s rb = s.pc + 1 → fetch t = readReg s ra)) ∧
  encode (.strReg (.gpr 1) (.gpr 2)) = some 0x00010540#32 ∧
  (∀ s : State, readReg s (.gpr 1) = 49#32 → readReg s (.gpr 2) = 32#32 →
    ∃ t, exec (.strReg (.gpr 1) (.gpr 2)) s = .next t ∧ t.memRead 32#32 = 49#32)

/-- 41_memory_instructions R181, R185: `STR.i` stores at `pc + 1 + sext_32(imm17)` modulo 2^32 (log 22). The sign
extension of the immediate is decision D11 (log 23). That memory is sequential is decision D17 (log 32). R26 to R31 as
operands are decision D12 (log 19). -/
def Obligations.StrImmStoresRelativeToTheNextWord : Prop :=
  ∀ (s : State) (ra : Reg) (imm17 : BitVec 17),
    ∃ t, exec (.strImm ra imm17) s = .next t ∧ t.memRead (eaImm s imm17) = readReg s ra ∧
      eaImm s imm17 = s.pc + 1 + imm17.signExtend 32 ∧
      OnlyWordWritten [] (eaImm s imm17) s t ∧ t.pc = s.pc + 1

/-- 41_memory_instructions R186: `PUSH` decrements `SP` and stores at the new `SP`; `PUSH SP` stores the decremented value
(decision D13, log 20), the decrement wraps (log 22). That memory is sequential is decision D17 (log 32). R26 to R31 as
operands are decision D12 (log 19). -/
def Obligations.PushStoresBelowTheStack : Prop :=
  ∀ (s : State) (ra : Reg),
    ∃ t, exec (.push ra) s = .next t ∧ t.sp = s.sp - 1 ∧
      t.memRead (s.sp - 1) = (if ra = .sp then s.sp - 1 else readReg s ra) ∧
      OnlyWordWritten [.sp] (s.sp - 1) s t ∧ t.pc = s.pc + 1

/-- 41_memory_instructions R187: with any destination but R28 `POP` completes. It loads the word at the old `SP` and then
increments `SP`: a destination other than R29 and R30 reads as the word, R29 as its low six bits, and R30, the increment
coming last, as the word plus one (decision D13, log 20). The increment wraps (log 22). R26 to R31 as operands are
decision D12 (log 19). R28 as destination is `NonJumpCannotWritePc` (log 9). -/
def Obligations.PopLoadsFromTheStack : Prop :=
  ∀ (s : State) (ra : Reg), ra ≠ .pc →
    ∃ t, exec (.pop ra) s = .next t ∧
      (match ra with
        | .sp => readReg t .sp = s.memRead s.sp + 1
        | .sts => readReg t .sts = ((s.memRead s.sp).setWidth 6).setWidth 32 ∧ t.sp = s.sp + 1
        | r => readReg t r = s.memRead s.sp ∧ t.sp = s.sp + 1) ∧
      t.pc = s.pc + 1 ∧ t.freeDraws = s.freeDraws ∧ OnlyRegsWritten [ra, .sp] s t

/-! Control instructions. -/

/-- 42_control R201: `HALT` sets `halted` and nothing else, and so does running the zero word; `pc` keeps its address
(decision D23, log 26). -/
def Obligations.HaltEndsTheRun : Prop :=
  (∀ s : State, ∃ t, exec .halt s = .next t ∧ t.halted = true ∧ t.pc = s.pc ∧ RegsKept [] s t ∧ MainKept s t ∧
    SpriteKept s t ∧ FrameKept s t ∧ BlitterKept s t ∧ t.keyTape = s.keyTape ∧ t.freeDraws = s.freeDraws) ∧
  ∀ s : State, s.memRead s.pc = 0#32 → runInstruction s = .next (s.withHalted true)

/-- 10_state R33: `CondMatch`. The null condition matches every status, the null status every condition, every code itself,
and the six further pairs are the spec's decision D5 (log 11); an invalid status code has no answer. -/
def Obligations.CondMatchRelation : Prop :=
  (∀ s : BitVec 5, condMatch .ns s = some true) ∧
  (∀ (c : Cond) (s : BitVec 5), c ≠ .ns → InvalidCode s → condMatch c s = none) ∧
  (∀ c s : Cond, ∃ b, condMatch c s.code = some b ∧
    (b = true ↔ c = .ns ∨ s = .ns ∨ c = s ∨ (c = .ne ∧ (s = .gt ∨ s = .lt)) ∨ (c = .gte ∧ (s = .gt ∨ s = .e)) ∨
      (c = .lte ∧ (s = .lt ∨ s = .e))))

/-- 42_control R200, R202, R203, R207: a jump goes to its target where its condition matches and to the next instruction
where it does not, and changes nothing else (`CondMatch`: log 11). The target wraps modulo 2^32 (log 22). The sign
extension of the immediate is decision D11 (log 23). R26 to R31 as operands are decision D12 (log 19). -/
def Obligations.JumpsGoWhereTheConditionSays : Prop :=
  ∀ (s : State) (c : Cond) (ra : Reg) (imm22 : BitVec 22) (b : Bool), condMatch c s.cc = some b →
    (∃ t, exec (.jmpReg c ra) s = .next t ∧ t.pc = (if b then readReg s ra else s.pc + 1) ∧ OnlyPcWritten s t) ∧
    (∃ t, exec (.jmpImm c imm22) s = .next t ∧
      t.pc = (if b then s.pc + imm22.signExtend 32 else s.pc + 1) ∧ OnlyPcWritten s t)

/-- 42_control R200, R204, R205, R208: a taken subroutine jump leaves the address of the next instruction in `LR`; `JMPS
LR` goes to the new `LR` (decision D13, log 20); one not taken writes nothing but `pc` (`CondMatch`: log 11). The target
wraps modulo 2^32 (log 22). The sign extension of the immediate is decision D11 (log 23). R26 to R31 as operands are
decision D12 (log 19). -/
def Obligations.SubroutineJumpsLink : Prop :=
  ∀ (s : State) (c : Cond) (ra : Reg) (imm22 : BitVec 22) (b : Bool), condMatch c s.cc = some b →
    (∃ t, exec (.jmpsReg c ra) s = .next t ∧
      t.pc = (if b ∧ ra ≠ .lr then readReg s ra else s.pc + 1) ∧
      t.lr = (if b then s.pc + 1 else s.lr) ∧ t.freeDraws = s.freeDraws ∧ OnlyRegsWritten [.lr] s t) ∧
    (∃ t, exec (.jmpsImm c imm22) s = .next t ∧
      t.pc = (if b then s.pc + imm22.signExtend 32 else s.pc + 1) ∧
      t.lr = (if b then s.pc + 1 else s.lr) ∧ t.freeDraws = s.freeDraws ∧ OnlyRegsWritten [.lr] s t)

/-- 42_control R206: `JMPI`, taken with the interrupt flag set, clears it and goes to `INTLR`; else it only advances `pc`.
The condition code stays (`CondMatch`: log 11). -/
def Obligations.JmpiReturnsFromTheInterrupt : Prop :=
  ∀ (s : State) (c : Cond) (b : Bool), condMatch c s.cc = some b →
    ∃ t, exec (.jmpi c) s = .next t ∧
      t.pc = (if b = true ∧ s.iflag = true then s.intlr else s.pc + 1) ∧
      t.iflag = (if b then false else s.iflag) ∧ t.cc = s.cc ∧
      t.freeDraws = s.freeDraws ∧ OnlyRegsWritten [.sts] s t

/-- 10_state R33: a jump with a non-null condition that meets an invalid code in `STS.CC` has no step (log 11). -/
def Obligations.InvalidStatusCodeRefusesJumps : Prop :=
  ∀ (s : State) (c : Cond) (ra : Reg) (imm22 : BitVec 22), c ≠ .ns → InvalidCode s.cc →
    exec (.jmpReg c ra) s = .refused .invalidConditionCode ∧
    exec (.jmpImm c imm22) s = .refused .invalidConditionCode ∧
    exec (.jmpsReg c ra) s = .refused .invalidConditionCode ∧
    exec (.jmpsImm c imm22) s = .refused .invalidConditionCode ∧
    exec (.jmpi c) s = .refused .invalidConditionCode

/-! Graphics instructions. -/

/-- 43_graphics R223, R224: `GLOD` register direct copies the sprite, least significant byte of a word first (decision
D22, log 28), where it ends within the sprite library. The source address wraps modulo 2^32 (log 22); past the end of the
library is `GlodPastTheEndRefused` (log 12). R26 to R31 as operands are decision D12 (log 19). -/
def Obligations.GlodRegCopiesTheSprite : Prop :=
  ∀ (s : State) (ra rb rc : Reg),
    (readReg s ra).toNat % 4096 + (readReg s rc).toNat % 4096 ≤ 4096 →
    ∃ t, exec (.glodReg ra rb rc) s = .next t ∧
      SpriteLoaded s t ((readReg s ra).toNat % 4096) (readReg s rb) ((readReg s rc).toNat % 4096)

/-- 43_graphics R223, R225: `GLOD` immediate, at assembly level (log 14), copies from `pc + sext_32(src10)`. The least
significant byte of a word is first by decision D22 (log 28); the source, relative to the `GLOD` itself (log 14) and
sign-extended (log 23), wraps modulo 2^32 (log 22); past the end of the library is `GlodPastTheEndRefused` (log 12). -/
def Obligations.GlodImmCopiesTheSprite : Prop :=
  ∀ (s : State) (dest12 : BitVec 12) (src10 : BitVec 10) (len12 : BitVec 12), dest12.toNat + len12.toNat ≤ 4096 →
    ∃ t, exec (.glodImm dest12 src10 len12) s = .next t ∧
      SpriteLoaded s t dest12.toNat (s.pc + src10.signExtend 32) len12.toNat

/-- 43_graphics R223 (`BlitOverflow` at the spec's default, log 12): a sprite that would run past the library has no step.
The immediate form exists at assembly level only (log 14). R26 to R31 as operands are decision D12 (log 19). -/
def Obligations.GlodPastTheEndRefused : Prop :=
  ∀ (s : State) (ra rb rc : Reg) (dest12 : BitVec 12) (src10 : BitVec 10) (len12 : BitVec 12),
    (4096 < (readReg s ra).toNat % 4096 + (readReg s rc).toNat % 4096 →
      exec (.glodReg ra rb rc) s = .refused .graphicsAddressOverflow) ∧
    (4096 < dest12.toNat + len12.toNat →
      exec (.glodImm dest12 src10 len12) s = .refused .graphicsAddressOverflow)

/-- 43_graphics R226: `BLITMEM` sets the Blitter's source to 12 bits and its destination to 16 bits of a register. R26 to
R31 as operands are decision D12 (log 19). -/
def Obligations.BlitmemSetsTheAddresses : Prop :=
  ∀ (s : State) (ra rb : Reg),
    ∃ t, exec (.blitmem ra rb) s = .next t ∧
      t.blSrc.toNat = (readReg s ra).toNat % 2 ^ 12 ∧ t.blDst.toNat = (readReg s rb).toNat % 2 ^ 16 ∧
      t.blW = s.blW ∧ t.blH = s.blH ∧ t.pc = s.pc + 1 ∧ t.freeDraws = s.freeDraws ∧
      RegsKept [] s t ∧ MainKept s t ∧ SpriteKept s t ∧ FrameKept s t ∧ ControlKept s t

/-- 43_graphics R227, R228: `BLITDIMS` sets the Blitter's width and height to 7 bits of a register or an immediate.
Immediates at their own width are decision D11 (log 23). R26 to R31 as operands are decision D12 (log 19). -/
def Obligations.BlitdimsSetTheDimensions : Prop :=
  ∀ (s : State) (ra rb : Reg) (w7 h7 : BitVec 7),
    (∃ t, exec (.blitdimsReg ra rb) s = .next t ∧
      t.blW.toNat = (readReg s ra).toNat % 2 ^ 7 ∧ t.blH.toNat = (readReg s rb).toNat % 2 ^ 7 ∧
      t.blSrc = s.blSrc ∧ t.blDst = s.blDst ∧ t.pc = s.pc + 1 ∧ t.freeDraws = s.freeDraws ∧
      RegsKept [] s t ∧ MainKept s t ∧ SpriteKept s t ∧ FrameKept s t ∧ ControlKept s t) ∧
    (∃ t, exec (.blitdimsImm w7 h7) s = .next t ∧ t.blW = w7 ∧ t.blH = h7 ∧
      t.blSrc = s.blSrc ∧ t.blDst = s.blDst ∧ t.pc = s.pc + 1 ∧ t.freeDraws = s.freeDraws ∧
      RegsKept [] s t ∧ MainKept s t ∧ SpriteKept s t ∧ FrameKept s t ∧ ControlKept s t)

/-- 43_graphics R222, whole: the sixteen operations, row by row, and with them the truth table they are: the bit of `bop` that
a source bit and a destination bit select. No choice of the spec or the model enters. -/
def Obligations.BlitOperationTable : Prop :=
  ∀ src dest : Byte,
    blitOp 0#4 src dest = 0x00#8 ∧ blitOp 1#4 src dest = src &&& dest ∧ blitOp 2#4 src dest = src &&& ~~~ dest ∧
    blitOp 3#4 src dest = src ∧ blitOp 4#4 src dest = ~~~ src &&& dest ∧ blitOp 5#4 src dest = dest ∧
    blitOp 6#4 src dest = src ^^^ dest ∧ blitOp 7#4 src dest = src ||| dest ∧
    blitOp 8#4 src dest = ~~~ src &&& ~~~ dest ∧ blitOp 9#4 src dest = ~~~ src ^^^ dest ∧
    blitOp 10#4 src dest = ~~~ dest ∧ blitOp 11#4 src dest = src ||| ~~~ dest ∧ blitOp 12#4 src dest = ~~~ src ∧
    blitOp 13#4 src dest = ~~~ src ||| dest ∧ blitOp 14#4 src dest = ~~~ src ||| ~~~ dest ∧
    blitOp 15#4 src dest = 0xFF#8 ∧
    ∀ (bop : BitVec 4) (j : Nat), j < 8 →
      (blitOp bop src dest).getLsbD j =
        if src.getLsbD j then (if dest.getLsbD j then bop.getLsbD 0 else bop.getLsbD 1)
        else (if dest.getLsbD j then bop.getLsbD 2 else bop.getLsbD 3)

/-- 43_graphics R229, R230, R231: `BLIT`, both forms, writes every pixel of the rectangle and nothing else, where the
rectangle lies within both memories (decision D21, log 27). Immediates at their own width are decision D11 (log 23); past
the end of a memory is `BlitPastTheEndRefused` (log 12). R26 to R31 as operands are decision D12 (log 19). -/
def Obligations.BlitWritesTheRectangle : Prop :=
  ∀ (s : State) (ra rb : Reg) (bop4 : BitVec 4) (mask8 : Byte), BlitInRange s →
    (∃ t, exec (.blitReg ra rb) s = .next t ∧
      Blitted s t ((readReg s ra).setWidth 4) ((readReg s rb).setWidth 8)) ∧
    (∃ t, exec (.blitImm bop4 mask8) s = .next t ∧ Blitted s t bop4 mask8)

/-- 43_graphics R231 (`BlitOverflow` at the spec's default, log 12): a rectangle that leaves either memory has no step.
R26 to R31 as operands are decision D12 (log 19). -/
def Obligations.BlitPastTheEndRefused : Prop :=
  ∀ (s : State) (ra rb : Reg) (bop4 : BitVec 4) (mask8 : Byte), ¬ BlitInRange s →
    exec (.blitReg ra rb) s = .refused .graphicsAddressOverflow ∧
    exec (.blitImm bop4 mask8) s = .refused .graphicsAddressOverflow

/-! Interrupts. -/

/-- 60_exceptions R254: a key event is taken exactly when the machine is not halted, the interrupt flag is clear and a
handler is set; else it is dropped with no effect (the halted case is decision D23, log 26). -/
def Obligations.KeyEventTakenOrDropped : Prop :=
  ∀ (s : State) (k : Key),
    (s.halted = false ∧ s.iflag = false ∧ s.ihdlr ≠ 0xFFFFFFFF#32 → keyEvent k s = enterInterrupt k s) ∧
    (s.halted = true ∨ s.iflag = true ∨ s.ihdlr = 0xFFFFFFFF#32 → keyEvent k s = s)

/-- 60_exceptions R252, R255: interrupt entry sets the flag, stores the code at `0xFFFFFFFF`, saves `pc` in `INTLR` and
goes to `IHDLR`; nothing else changes (the zero-extension is decision D14, log 21). The seven keys have the codes 0 to 6.
That entry is one step and saves the address of the next instruction is decision D14 too. -/
def Obligations.InterruptEntrySavesAndJumps : Prop :=
  (∀ (s : State) (k : Key),
    (enterInterrupt k s).iflag = true ∧ (enterInterrupt k s).cc = s.cc ∧
    (enterInterrupt k s).memRead 0xFFFFFFFF#32 = k.code.setWidth 32 ∧
    (enterInterrupt k s).intlr = s.pc ∧ (enterInterrupt k s).pc = s.ihdlr ∧
    OnlyWordWritten [.intlr, .sts] 0xFFFFFFFF#32 s (enterInterrupt k s)) ∧
  Key.code .upArrow = 0#4 ∧ Key.code .downArrow = 1#4 ∧ Key.code .leftArrow = 2#4 ∧ Key.code .rightArrow = 3#4 ∧
  Key.code .enter = 4#4 ∧ Key.code .escape = 5#4 ∧ Key.code .space = 6#4

/-- 60_exceptions R258, 42_control R206: a handler whose first instruction is `JMPI` resumes the interrupted program where
it was, with its status and every register but `INTLR`, and all of memory but the code word, as before. That entry comes
between two instructions and saves the address of the next is decision D14 (log 21). -/
def Obligations.InterruptThenReturnResumes : Prop :=
  ∀ (s : State) (k : Key), s.takesKey = true →
    ∃ t, exec (.jmpi .ns) (keyEvent k s) = .next t ∧ t.pc = s.pc ∧ t.sts = s.sts ∧ t.intlr = s.pc ∧
      OnlyWordWritten [.intlr] 0xFFFFFFFF#32 s t

/-! Rules of the whole machine, over every instruction. -/

/-- 10_state R36..R39, 20_memory R60: which instructions can change main memory, the sprite library, the frame buffer and
the Blitter's registers. The split between main and graphics memory is decision D29 (log 32), that `BLIT` keeps the
Blitter's registers decision D21 (log 27). -/
def Obligations.MemoriesWrittenOnlyByTheirInstructions : Prop :=
  ∀ (i : Instr) (s t : State), exec i s = .next t →
    (i.stores = false → MainKept s t) ∧ (i.loadsSprite = false → SpriteKept s t) ∧
    (i.blits = false → FrameKept s t) ∧
    ((∀ ra rb, i ≠ .blitmem ra rb) → t.blSrc = s.blSrc ∧ t.blDst = s.blDst) ∧
    (i.setsBlitDims = false → t.blW = s.blW ∧ t.blH = s.blH)

/-- 10_state R21..R29: a register other than `PC` and `STS` is changed only by an instruction that names it as its
destination, `SP` also by `PUSH` and `POP`, `LR` also by a subroutine jump. R26 to R31 as operands are decision D12 (log
19). -/
def Obligations.RegistersWrittenOnlyAsNamed : Prop :=
  ∀ (i : Instr) (s t : State) (r : Reg), exec i s = .next t → r ≠ .pc → r ≠ .sts → i.dest ≠ some r →
    ¬ (r = .sp ∧ i.usesStack = true) → ¬ (r = .lr ∧ i.links = true) → readReg t r = readReg s r

/-- 10_state R32, R34: without R29 as its destination, an instruction changes `STS.CC` only if it is `CMP` or one of ALU
operations 0..15, and `STS.IF` only if it is `JMPI`, which can only clear it. The condition code after operations 0 to 15
is decision D7 (log 3). R26 to R31 as operands are decision D12 (log 19). -/
def Obligations.StatusWrittenOnlyByItsWriters : Prop :=
  ∀ (i : Instr) (s t : State), exec i s = .next t → i.dest ≠ some .sts →
    (i.isArith = false → (∀ ra rb, i ≠ .cmp ra rb) → t.cc = s.cc) ∧
    ((∀ c, i ≠ .jmpi c) → t.iflag = s.iflag) ∧ (t.iflag = true → s.iflag = true)

/-- 10_state R41: only `HALT` ends a run; no instruction touches the key tape, and only ALU operations 0..15 draw a free
value, one each (the two fields are the model's, log 3, log 15). -/
def Obligations.OnlyHaltEndsTheRun : Prop :=
  ∀ (i : Instr) (s t : State), exec i s = .next t →
    (s.halted = false → (t.halted = true ↔ i = .halt)) ∧ t.keyTape = s.keyTape ∧
    t.freeDraws = (if i.isArith then s.freeDraws + 1 else s.freeDraws)
end

