-- ==== Sys2Proof/Laws/Assembler.lean ====
section
/-!
SUPPORT. What the assembler's operand functions can do, said once: the place of a digit, the immediates that fit a field, and
the operands of a jump.
-/

namespace Sys2Proof.Machine

/-- A character found in a list stands at the place named. -/
theorem placeIn_some {c : Char} {cs : List Char} {n : Nat} (h : placeIn c cs = some n) : cs[n]? = some c := by
  induction cs generalizing n with
  | nil => cases h
  | cons d ds ih =>
    rw [placeIn] at h
    split at h
    · next e => cases h; simp [e]
    · obtain ⟨m, hm, rfl⟩ := Option.map_eq_some_iff.mp h
      simpa using ih hm

/-- A digit's value is below sixteen (30_encoding R121). -/
theorem digitValue_lt {c : Char} {n : Nat} (h : digitValue c = some n) : n < 16 := by
  have key : ∀ {cs : List Char}, cs.length = 16 → placeIn c cs = some n → n < 16 := fun hl hp =>
    hl ▸ (List.getElem?_eq_some_iff.mp (placeIn_some hp)).1
  unfold digitValue at h
  split at h
  · next e => cases h; exact key (by decide) e
  · exact key (by decide) h

/-- Every value of a field, written unsigned, fits it (30_encoding R121). -/
@[simp] theorem fit_unsigned {w : Nat} (v : BitVec w) : fit w (.imm false v.toNat) = some v := by
  rw [fit, if_pos ⟨Int.natCast_nonneg _, by exact_mod_cast v.isLt⟩]
  simp

/-- Every value of a field, written signed, fits it (30_encoding R121). -/
@[simp] theorem fit_signed {w : Nat} (v : BitVec w) : fit w (.imm true v.toInt) = some v := by
  rw [fit, if_pos ⟨BitVec.le_toInt v, BitVec.toInt_lt⟩, BitVec.ofInt_toInt]

/-- A jump with a register operand (30_encoding R123). -/
@[simp] theorem jumpOperand_reg (f : Reg → Instr) (g : BitVec 22 → Instr) (ra : Reg) :
    jumpOperand f g [.reg ra] = some (f ra) := rfl

/-- A jump with an immediate operand (30_encoding R123). -/
@[simp] theorem jumpOperand_imm (f : Reg → Instr) (g : BitVec 22 → Instr) (signed : Bool) (value : Int) :
    jumpOperand f g [.imm signed value] = (fit 22 (.imm signed value)).map g := rfl

/-- A mnemonic that stands in the table assembles whatever operands its form takes (30_encoding R123). -/
theorem assembleOperation_ok {m : List Char} {os : List Operand} {build : List Operand → Option Instr} {i : Instr}
    (h : mnemonics.lookup m = some build) (hb : build os = some i) : assembleOperation m os = .ok i := by
  rw [assembleOperation, h]
  simp only [hb]

end Sys2Proof.Machine
end

