-- ==== Sys2Proof/Laws/Status.lean ====
section
/-! SUPPORT. The fields of the status register, the condition codes, and the relation `CondMatch`. -/

namespace Sys2Proof.Machine

@[simp] theorem stsCC_mkSts (b : Bool) (c : BitVec 5) : stsCC (mkSts b c) = c := by
  revert c; cases b <;> decide

@[simp] theorem stsIF_mkSts (b : Bool) (c : BitVec 5) : stsIF (mkSts b c) = b := by
  revert c; cases b <;> decide

@[simp] theorem mkSts_fields (x : BitVec 6) : mkSts (stsIF x) (stsCC x) = x := by
  revert x; decide

theorem mkSts_inj {b b' : Bool} {c c' : BitVec 5} : mkSts b c = mkSts b' c' ↔ b = b' ∧ c = c' := by
  constructor
  · intro h
    have h₁ := congrArg stsIF h
    have h₂ := congrArg stsCC h
    simpa using And.intro h₁ h₂
  · rintro ⟨rfl, rfl⟩; rfl

@[simp] theorem Cond.ofCode_code (c : Cond) : Cond.ofCode c.code = some c := by
  cases c <;> rfl

theorem Cond.code_of_ofCode {x : BitVec 5} {c : Cond} (h : Cond.ofCode x = some c) : c.code = x := by
  revert h; revert x; cases c <;> decide

@[simp] theorem condMatch_ns (s : BitVec 5) : condMatch .ns s = some true := rfl

/-- With a valid status code the match is the relation of 10_state R33. -/
@[simp] theorem condMatch_code (c s : Cond) : condMatch c s.code = some (condRelation c s) := by
  cases c <;> simp [condMatch, condRelation]

/-- No match is told only of a non-null condition against an invalid status code (10_state R33). -/
theorem condMatch_eq_none {c : Cond} {s : BitVec 5} :
    condMatch c s = none ↔ c ≠ .ns ∧ Cond.ofCode s = none := by
  unfold condMatch
  split
  · simp [*]
  · simp [*]

@[simp] theorem compareCode_self (a : Word) : compareCode a a = .e := by simp [compareCode]

end Sys2Proof.Machine
end

