-- ==== Sys2Proof/Laws/Encoding.lean ====
section
/-!
SUPPORT. Register numbers, and each format's fields cut back out of its word (30_encoding R94..R97).
-/

namespace Sys2Proof

@[simp] theorem Reg.ofNum_num (r : Reg) : Reg.ofNum r.num = r := by
  cases r with
  | gpr n =>
    have := n.isLt
    have h : (BitVec.ofNat 5 n.val).toNat = n.val := by simp only [BitVec.toNat_ofNat]; omega
    simp only [Reg.num, Reg.ofNum, h, n.isLt, dite_true]
  | _ => rfl

@[simp] theorem Reg.num_ofNum (n : BitVec 5) : (Reg.ofNum n).num = n := by
  revert n; decide

theorem Reg.num_inj {r r' : Reg} : r.num = r'.num ↔ r = r' :=
  ⟨fun h => by rw [← Reg.ofNum_num r, h, Reg.ofNum_num], fun h => by rw [h]⟩

/-- The field at the bottom of two bit vectors side by side. -/
theorem extract_append_low {n m : Nat} (x : BitVec n) (y : BitVec m) : (x ++ y).extractLsb' 0 m = y := by
  apply BitVec.eq_of_getLsbD_eq
  intro i hi
  simp [BitVec.getLsbD_append, hi]

/-- A field that lies above the lower of two bit vectors side by side. -/
theorem extract_append_high {n m lo lo' len : Nat} (x : BitVec n) (y : BitVec m) (h : lo = lo' + m) :
    (x ++ y).extractLsb' lo len = x.extractLsb' lo' len := by
  subst h
  apply BitVec.eq_of_getLsbD_eq
  intro i hi
  have : ¬ lo' + m + i < m := by omega
  simp [BitVec.getLsbD_append, hi, this, show lo' + m + i - m = lo' + i by omega]

/-! The formats. -/

/-- The fields of format `A-RRR`, cut back out of its word. -/
theorem formatARRR_fields (op6 : BitVec 6) (ra rb rc : Reg) :
    let w := formatARRR op6 ra rb rc
    condField w = 0#5 ∧ field w 5 2 = 1#2 ∧ field w 7 6 = op6 ∧ field w 13 5 = ra.num ∧ field w 18 5 = rb.num ∧ field w 23 5 = rc.num ∧ field w 28 4 = 0#4 := by
  simp only [condField, field, formatARRR]
  refine ⟨?_, ?_, ?_, ?_, ?_, ?_, ?_⟩
  · change @BitVec.extractLsb' (4 + 5 + 5 + 5 + 6 + 2 + 5) 0 5 _ = _
    rw [extract_append_low]
  · change @BitVec.extractLsb' (4 + 5 + 5 + 5 + 6 + 2 + 5) 5 2 _ = _
    rw [extract_append_high (lo := 5) (lo' := 0) (m := 5) _ _ rfl, extract_append_low]
  · change @BitVec.extractLsb' (4 + 5 + 5 + 5 + 6 + 2 + 5) 7 6 _ = _
    rw [extract_append_high (lo := 7) (lo' := 2) (m := 5) _ _ rfl,
      extract_append_high (lo := 2) (lo' := 0) (m := 2) _ _ rfl, extract_append_low]
  · change @BitVec.extractLsb' (4 + 5 + 5 + 5 + 6 + 2 + 5) 13 5 _ = _
    rw [extract_append_high (lo := 13) (lo' := 8) (m := 5) _ _ rfl,
      extract_append_high (lo := 8) (lo' := 6) (m := 2) _ _ rfl,
      extract_append_high (lo := 6) (lo' := 0) (m := 6) _ _ rfl, extract_append_low]
  · change @BitVec.extractLsb' (4 + 5 + 5 + 5 + 6 + 2 + 5) 18 5 _ = _
    rw [extract_append_high (lo := 18) (lo' := 13) (m := 5) _ _ rfl,
      extract_append_high (lo := 13) (lo' := 11) (m := 2) _ _ rfl,
      extract_append_high (lo := 11) (lo' := 5) (m := 6) _ _ rfl,
      extract_append_high (lo := 5) (lo' := 0) (m := 5) _ _ rfl, extract_append_low]
  · change @BitVec.extractLsb' (4 + 5 + 5 + 5 + 6 + 2 + 5) 23 5 _ = _
    rw [extract_append_high (lo := 23) (lo' := 18) (m := 5) _ _ rfl,
      extract_append_high (lo := 18) (lo' := 16) (m := 2) _ _ rfl,
      extract_append_high (lo := 16) (lo' := 10) (m := 6) _ _ rfl,
      extract_append_high (lo := 10) (lo' := 5) (m := 5) _ _ rfl,
      extract_append_high (lo := 5) (lo' := 0) (m := 5) _ _ rfl, extract_append_low]
  · change @BitVec.extractLsb' (4 + 5 + 5 + 5 + 6 + 2 + 5) 28 4 _ = _
    rw [extract_append_high (lo := 28) (lo' := 23) (m := 5) _ _ rfl,
      extract_append_high (lo := 23) (lo' := 21) (m := 2) _ _ rfl,
      extract_append_high (lo := 21) (lo' := 15) (m := 6) _ _ rfl,
      extract_append_high (lo := 15) (lo' := 10) (m := 5) _ _ rfl,
      extract_append_high (lo := 10) (lo' := 5) (m := 5) _ _ rfl,
      extract_append_high (lo := 5) (lo' := 0) (m := 5) _ _ rfl, BitVec.extractLsb'_eq_self]

/-- The fields of format `A-RRI`, cut back out of its word. -/
theorem formatARRI_fields (op6 : BitVec 6) (ra rb : Reg) (imm9 : BitVec 9) :
    let w := formatARRI op6 ra rb imm9
    condField w = 0#5 ∧ field w 5 2 = 1#2 ∧ field w 7 6 = op6 ∧ field w 13 5 = ra.num ∧ field w 18 5 = rb.num ∧ field w 23 9 = imm9 := by
  simp only [condField, field, formatARRI]
  refine ⟨?_, ?_, ?_, ?_, ?_, ?_⟩
  · change @BitVec.extractLsb' (9 + 5 + 5 + 6 + 2 + 5) 0 5 _ = _
    rw [extract_append_low]
  · change @BitVec.extractLsb' (9 + 5 + 5 + 6 + 2 + 5) 5 2 _ = _
    rw [extract_append_high (lo := 5) (lo' := 0) (m := 5) _ _ rfl, extract_append_low]
  · change @BitVec.extractLsb' (9 + 5 + 5 + 6 + 2 + 5) 7 6 _ = _
    rw [extract_append_high (lo := 7) (lo' := 2) (m := 5) _ _ rfl,
      extract_append_high (lo := 2) (lo' := 0) (m := 2) _ _ rfl, extract_append_low]
  · change @BitVec.extractLsb' (9 + 5 + 5 + 6 + 2 + 5) 13 5 _ = _
    rw [extract_append_high (lo := 13) (lo' := 8) (m := 5) _ _ rfl,
      extract_append_high (lo := 8) (lo' := 6) (m := 2) _ _ rfl,
      extract_append_high (lo := 6) (lo' := 0) (m := 6) _ _ rfl, extract_append_low]
  · change @BitVec.extractLsb' (9 + 5 + 5 + 6 + 2 + 5) 18 5 _ = _
    rw [extract_append_high (lo := 18) (lo' := 13) (m := 5) _ _ rfl,
      extract_append_high (lo := 13) (lo' := 11) (m := 2) _ _ rfl,
      extract_append_high (lo := 11) (lo' := 5) (m := 6) _ _ rfl,
      extract_append_high (lo := 5) (lo' := 0) (m := 5) _ _ rfl, extract_append_low]
  · change @BitVec.extractLsb' (9 + 5 + 5 + 6 + 2 + 5) 23 9 _ = _
    rw [extract_append_high (lo := 23) (lo' := 18) (m := 5) _ _ rfl,
      extract_append_high (lo := 18) (lo' := 16) (m := 2) _ _ rfl,
      extract_append_high (lo := 16) (lo' := 10) (m := 6) _ _ rfl,
      extract_append_high (lo := 10) (lo' := 5) (m := 5) _ _ rfl,
      extract_append_high (lo := 5) (lo' := 0) (m := 5) _ _ rfl, BitVec.extractLsb'_eq_self]

/-- The fields of format `A-RR`, cut back out of its word. -/
theorem formatARR_fields (op6 : BitVec 6) (ra rb : Reg) :
    let w := formatARR op6 ra rb
    condField w = 0#5 ∧ field w 5 2 = 1#2 ∧ field w 7 6 = op6 ∧ field w 13 5 = ra.num ∧ field w 18 5 = rb.num ∧ field w 23 9 = 0#9 := by
  simp only [condField, field, formatARR]
  refine ⟨?_, ?_, ?_, ?_, ?_, ?_⟩
  · change @BitVec.extractLsb' (9 + 5 + 5 + 6 + 2 + 5) 0 5 _ = _
    rw [extract_append_low]
  · change @BitVec.extractLsb' (9 + 5 + 5 + 6 + 2 + 5) 5 2 _ = _
    rw [extract_append_high (lo := 5) (lo' := 0) (m := 5) _ _ rfl, extract_append_low]
  · change @BitVec.extractLsb' (9 + 5 + 5 + 6 + 2 + 5) 7 6 _ = _
    rw [extract_append_high (lo := 7) (lo' := 2) (m := 5) _ _ rfl,
      extract_append_high (lo := 2) (lo' := 0) (m := 2) _ _ rfl, extract_append_low]
  · change @BitVec.extractLsb' (9 + 5 + 5 + 6 + 2 + 5) 13 5 _ = _
    rw [extract_append_high (lo := 13) (lo' := 8) (m := 5) _ _ rfl,
      extract_append_high (lo := 8) (lo' := 6) (m := 2) _ _ rfl,
      extract_append_high (lo := 6) (lo' := 0) (m := 6) _ _ rfl, extract_append_low]
  · change @BitVec.extractLsb' (9 + 5 + 5 + 6 + 2 + 5) 18 5 _ = _
    rw [extract_append_high (lo := 18) (lo' := 13) (m := 5) _ _ rfl,
      extract_append_high (lo := 13) (lo' := 11) (m := 2) _ _ rfl,
      extract_append_high (lo := 11) (lo' := 5) (m := 6) _ _ rfl,
      extract_append_high (lo := 5) (lo' := 0) (m := 5) _ _ rfl, extract_append_low]
  · change @BitVec.extractLsb' (9 + 5 + 5 + 6 + 2 + 5) 23 9 _ = _
    rw [extract_append_high (lo := 23) (lo' := 18) (m := 5) _ _ rfl,
      extract_append_high (lo := 18) (lo' := 16) (m := 2) _ _ rfl,
      extract_append_high (lo := 16) (lo' := 10) (m := 6) _ _ rfl,
      extract_append_high (lo := 10) (lo' := 5) (m := 5) _ _ rfl,
      extract_append_high (lo := 5) (lo' := 0) (m := 5) _ _ rfl, BitVec.extractLsb'_eq_self]

/-- The fields of format `A-RI14`, cut back out of its word. -/
theorem formatARI14_fields (op6 : BitVec 6) (ra : Reg) (imm14 : BitVec 14) :
    let w := formatARI14 op6 ra imm14
    condField w = 0#5 ∧ field w 5 2 = 1#2 ∧ field w 7 6 = op6 ∧ field w 13 5 = ra.num ∧ field w 18 14 = imm14 := by
  simp only [condField, field, formatARI14]
  refine ⟨?_, ?_, ?_, ?_, ?_⟩
  · change @BitVec.extractLsb' (14 + 5 + 6 + 2 + 5) 0 5 _ = _
    rw [extract_append_low]
  · change @BitVec.extractLsb' (14 + 5 + 6 + 2 + 5) 5 2 _ = _
    rw [extract_append_high (lo := 5) (lo' := 0) (m := 5) _ _ rfl, extract_append_low]
  · change @BitVec.extractLsb' (14 + 5 + 6 + 2 + 5) 7 6 _ = _
    rw [extract_append_high (lo := 7) (lo' := 2) (m := 5) _ _ rfl,
      extract_append_high (lo := 2) (lo' := 0) (m := 2) _ _ rfl, extract_append_low]
  · change @BitVec.extractLsb' (14 + 5 + 6 + 2 + 5) 13 5 _ = _
    rw [extract_append_high (lo := 13) (lo' := 8) (m := 5) _ _ rfl,
      extract_append_high (lo := 8) (lo' := 6) (m := 2) _ _ rfl,
      extract_append_high (lo := 6) (lo' := 0) (m := 6) _ _ rfl, extract_append_low]
  · change @BitVec.extractLsb' (14 + 5 + 6 + 2 + 5) 18 14 _ = _
    rw [extract_append_high (lo := 18) (lo' := 13) (m := 5) _ _ rfl,
      extract_append_high (lo := 13) (lo' := 11) (m := 2) _ _ rfl,
      extract_append_high (lo := 11) (lo' := 5) (m := 6) _ _ rfl,
      extract_append_high (lo := 5) (lo' := 0) (m := 5) _ _ rfl, BitVec.extractLsb'_eq_self]

/-- The fields of format `M-RR`, cut back out of its word. -/
theorem formatMRR_fields (op3 : BitVec 3) (ra rb : Reg) :
    let w := formatMRR op3 ra rb
    condField w = 0#5 ∧ field w 5 2 = 2#2 ∧ field w 7 3 = op3 ∧ field w 10 5 = ra.num ∧ field w 15 5 = rb.num ∧ field w 20 12 = 0#12 := by
  simp only [condField, field, formatMRR]
  refine ⟨?_, ?_, ?_, ?_, ?_, ?_⟩
  · change @BitVec.extractLsb' (12 + 5 + 5 + 3 + 2 + 5) 0 5 _ = _
    rw [extract_append_low]
  · change @BitVec.extractLsb' (12 + 5 + 5 + 3 + 2 + 5) 5 2 _ = _
    rw [extract_append_high (lo := 5) (lo' := 0) (m := 5) _ _ rfl, extract_append_low]
  · change @BitVec.extractLsb' (12 + 5 + 5 + 3 + 2 + 5) 7 3 _ = _
    rw [extract_append_high (lo := 7) (lo' := 2) (m := 5) _ _ rfl,
      extract_append_high (lo := 2) (lo' := 0) (m := 2) _ _ rfl, extract_append_low]
  · change @BitVec.extractLsb' (12 + 5 + 5 + 3 + 2 + 5) 10 5 _ = _
    rw [extract_append_high (lo := 10) (lo' := 5) (m := 5) _ _ rfl,
      extract_append_high (lo := 5) (lo' := 3) (m := 2) _ _ rfl,
      extract_append_high (lo := 3) (lo' := 0) (m := 3) _ _ rfl, extract_append_low]
  · change @BitVec.extractLsb' (12 + 5 + 5 + 3 + 2 + 5) 15 5 _ = _
    rw [extract_append_high (lo := 15) (lo' := 10) (m := 5) _ _ rfl,
      extract_append_high (lo := 10) (lo' := 8) (m := 2) _ _ rfl,
      extract_append_high (lo := 8) (lo' := 5) (m := 3) _ _ rfl,
      extract_append_high (lo := 5) (lo' := 0) (m := 5) _ _ rfl, extract_append_low]
  · change @BitVec.extractLsb' (12 + 5 + 5 + 3 + 2 + 5) 20 12 _ = _
    rw [extract_append_high (lo := 20) (lo' := 15) (m := 5) _ _ rfl,
      extract_append_high (lo := 15) (lo' := 13) (m := 2) _ _ rfl,
      extract_append_high (lo := 13) (lo' := 10) (m := 3) _ _ rfl,
      extract_append_high (lo := 10) (lo' := 5) (m := 5) _ _ rfl,
      extract_append_high (lo := 5) (lo' := 0) (m := 5) _ _ rfl, BitVec.extractLsb'_eq_self]

/-- The fields of format `M-RI`, cut back out of its word. -/
theorem formatMRI_fields (op3 : BitVec 3) (ra : Reg) (imm17 : BitVec 17) :
    let w := formatMRI op3 ra imm17
    condField w = 0#5 ∧ field w 5 2 = 2#2 ∧ field w 7 3 = op3 ∧ field w 10 5 = ra.num ∧ field w 15 17 = imm17 := by
  simp only [condField, field, formatMRI]
  refine ⟨?_, ?_, ?_, ?_, ?_⟩
  · change @BitVec.extractLsb' (17 + 5 + 3 + 2 + 5) 0 5 _ = _
    rw [extract_append_low]
  · change @BitVec.extractLsb' (17 + 5 + 3 + 2 + 5) 5 2 _ = _
    rw [extract_append_high (lo := 5) (lo' := 0) (m := 5) _ _ rfl, extract_append_low]
  · change @BitVec.extractLsb' (17 + 5 + 3 + 2 + 5) 7 3 _ = _
    rw [extract_append_high (lo := 7) (lo' := 2) (m := 5) _ _ rfl,
      extract_append_high (lo := 2) (lo' := 0) (m := 2) _ _ rfl, extract_append_low]
  · change @BitVec.extractLsb' (17 + 5 + 3 + 2 + 5) 10 5 _ = _
    rw [extract_append_high (lo := 10) (lo' := 5) (m := 5) _ _ rfl,
      extract_append_high (lo := 5) (lo' := 3) (m := 2) _ _ rfl,
      extract_append_high (lo := 3) (lo' := 0) (m := 3) _ _ rfl, extract_append_low]
  · change @BitVec.extractLsb' (17 + 5 + 3 + 2 + 5) 15 17 _ = _
    rw [extract_append_high (lo := 15) (lo' := 10) (m := 5) _ _ rfl,
      extract_append_high (lo := 10) (lo' := 8) (m := 2) _ _ rfl,
      extract_append_high (lo := 8) (lo' := 5) (m := 3) _ _ rfl,
      extract_append_high (lo := 5) (lo' := 0) (m := 5) _ _ rfl, BitVec.extractLsb'_eq_self]

/-- The fields of format `M-R`, cut back out of its word. -/
theorem formatMR_fields (op3 : BitVec 3) (ra : Reg) :
    let w := formatMR op3 ra
    condField w = 0#5 ∧ field w 5 2 = 2#2 ∧ field w 7 3 = op3 ∧ field w 10 5 = ra.num ∧ field w 15 17 = 0#17 := by
  simp only [condField, field, formatMR]
  refine ⟨?_, ?_, ?_, ?_, ?_⟩
  · change @BitVec.extractLsb' (17 + 5 + 3 + 2 + 5) 0 5 _ = _
    rw [extract_append_low]
  · change @BitVec.extractLsb' (17 + 5 + 3 + 2 + 5) 5 2 _ = _
    rw [extract_append_high (lo := 5) (lo' := 0) (m := 5) _ _ rfl, extract_append_low]
  · change @BitVec.extractLsb' (17 + 5 + 3 + 2 + 5) 7 3 _ = _
    rw [extract_append_high (lo := 7) (lo' := 2) (m := 5) _ _ rfl,
      extract_append_high (lo := 2) (lo' := 0) (m := 2) _ _ rfl, extract_append_low]
  · change @BitVec.extractLsb' (17 + 5 + 3 + 2 + 5) 10 5 _ = _
    rw [extract_append_high (lo := 10) (lo' := 5) (m := 5) _ _ rfl,
      extract_append_high (lo := 5) (lo' := 3) (m := 2) _ _ rfl,
      extract_append_high (lo := 3) (lo' := 0) (m := 3) _ _ rfl, extract_append_low]
  · change @BitVec.extractLsb' (17 + 5 + 3 + 2 + 5) 15 17 _ = _
    rw [extract_append_high (lo := 15) (lo' := 10) (m := 5) _ _ rfl,
      extract_append_high (lo := 10) (lo' := 8) (m := 2) _ _ rfl,
      extract_append_high (lo := 8) (lo' := 5) (m := 3) _ _ rfl,
      extract_append_high (lo := 5) (lo' := 0) (m := 5) _ _ rfl, BitVec.extractLsb'_eq_self]

/-- The fields of format `C-0`, cut back out of its word. -/
theorem formatC0_fields (op3 : BitVec 3) (c : Cond) :
    let w := formatC0 op3 c
    condField w = c.code ∧ field w 5 2 = 0#2 ∧ field w 7 3 = op3 ∧ field w 10 22 = 0#22 := by
  simp only [condField, field, formatC0]
  refine ⟨?_, ?_, ?_, ?_⟩
  · change @BitVec.extractLsb' (22 + 3 + 2 + 5) 0 5 _ = _
    rw [extract_append_low]
  · change @BitVec.extractLsb' (22 + 3 + 2 + 5) 5 2 _ = _
    rw [extract_append_high (lo := 5) (lo' := 0) (m := 5) _ _ rfl, extract_append_low]
  · change @BitVec.extractLsb' (22 + 3 + 2 + 5) 7 3 _ = _
    rw [extract_append_high (lo := 7) (lo' := 2) (m := 5) _ _ rfl,
      extract_append_high (lo := 2) (lo' := 0) (m := 2) _ _ rfl, extract_append_low]
  · change @BitVec.extractLsb' (22 + 3 + 2 + 5) 10 22 _ = _
    rw [extract_append_high (lo := 10) (lo' := 5) (m := 5) _ _ rfl,
      extract_append_high (lo := 5) (lo' := 3) (m := 2) _ _ rfl,
      extract_append_high (lo := 3) (lo' := 0) (m := 3) _ _ rfl, BitVec.extractLsb'_eq_self]

/-- The fields of format `C-R`, cut back out of its word. -/
theorem formatCR_fields (op3 : BitVec 3) (c : Cond) (ra : Reg) :
    let w := formatCR op3 c ra
    condField w = c.code ∧ field w 5 2 = 0#2 ∧ field w 7 3 = op3 ∧ field w 10 5 = ra.num ∧ field w 15 17 = 0#17 := by
  simp only [condField, field, formatCR]
  refine ⟨?_, ?_, ?_, ?_, ?_⟩
  · change @BitVec.extractLsb' (17 + 5 + 3 + 2 + 5) 0 5 _ = _
    rw [extract_append_low]
  · change @BitVec.extractLsb' (17 + 5 + 3 + 2 + 5) 5 2 _ = _
    rw [extract_append_high (lo := 5) (lo' := 0) (m := 5) _ _ rfl, extract_append_low]
  · change @BitVec.extractLsb' (17 + 5 + 3 + 2 + 5) 7 3 _ = _
    rw [extract_append_high (lo := 7) (lo' := 2) (m := 5) _ _ rfl,
      extract_append_high (lo := 2) (lo' := 0) (m := 2) _ _ rfl, extract_append_low]
  · change @BitVec.extractLsb' (17 + 5 + 3 + 2 + 5) 10 5 _ = _
    rw [extract_append_high (lo := 10) (lo' := 5) (m := 5) _ _ rfl,
      extract_append_high (lo := 5) (lo' := 3) (m := 2) _ _ rfl,
      extract_append_high (lo := 3) (lo' := 0) (m := 3) _ _ rfl, extract_append_low]
  · change @BitVec.extractLsb' (17 + 5 + 3 + 2 + 5) 15 17 _ = _
    rw [extract_append_high (lo := 15) (lo' := 10) (m := 5) _ _ rfl,
      extract_append_high (lo := 10) (lo' := 8) (m := 2) _ _ rfl,
      extract_append_high (lo := 8) (lo' := 5) (m := 3) _ _ rfl,
      extract_append_high (lo := 5) (lo' := 0) (m := 5) _ _ rfl, BitVec.extractLsb'_eq_self]

/-- The fields of format `C-I`, cut back out of its word. -/
theorem formatCI_fields (op3 : BitVec 3) (c : Cond) (imm22 : BitVec 22) :
    let w := formatCI op3 c imm22
    condField w = c.code ∧ field w 5 2 = 0#2 ∧ field w 7 3 = op3 ∧ field w 10 22 = imm22 := by
  simp only [condField, field, formatCI]
  refine ⟨?_, ?_, ?_, ?_⟩
  · change @BitVec.extractLsb' (22 + 3 + 2 + 5) 0 5 _ = _
    rw [extract_append_low]
  · change @BitVec.extractLsb' (22 + 3 + 2 + 5) 5 2 _ = _
    rw [extract_append_high (lo := 5) (lo' := 0) (m := 5) _ _ rfl, extract_append_low]
  · change @BitVec.extractLsb' (22 + 3 + 2 + 5) 7 3 _ = _
    rw [extract_append_high (lo := 7) (lo' := 2) (m := 5) _ _ rfl,
      extract_append_high (lo := 2) (lo' := 0) (m := 2) _ _ rfl, extract_append_low]
  · change @BitVec.extractLsb' (22 + 3 + 2 + 5) 10 22 _ = _
    rw [extract_append_high (lo := 10) (lo' := 5) (m := 5) _ _ rfl,
      extract_append_high (lo := 5) (lo' := 3) (m := 2) _ _ rfl,
      extract_append_high (lo := 3) (lo' := 0) (m := 3) _ _ rfl, BitVec.extractLsb'_eq_self]

/-- The fields of format `G-RRR`, cut back out of its word. -/
theorem formatGRRR_fields (op3 : BitVec 3) (ra rb rc : Reg) :
    let w := formatGRRR op3 ra rb rc
    condField w = 0#5 ∧ field w 5 2 = 3#2 ∧ field w 7 3 = op3 ∧ field w 10 5 = ra.num ∧ field w 15 5 = rb.num ∧ field w 20 5 = rc.num ∧ field w 25 7 = 0#7 := by
  simp only [condField, field, formatGRRR]
  refine ⟨?_, ?_, ?_, ?_, ?_, ?_, ?_⟩
  · change @BitVec.extractLsb' (7 + 5 + 5 + 5 + 3 + 2 + 5) 0 5 _ = _
    rw [extract_append_low]
  · change @BitVec.extractLsb' (7 + 5 + 5 + 5 + 3 + 2 + 5) 5 2 _ = _
    rw [extract_append_high (lo := 5) (lo' := 0) (m := 5) _ _ rfl, extract_append_low]
  · change @BitVec.extractLsb' (7 + 5 + 5 + 5 + 3 + 2 + 5) 7 3 _ = _
    rw [extract_append_high (lo := 7) (lo' := 2) (m := 5) _ _ rfl,
      extract_append_high (lo := 2) (lo' := 0) (m := 2) _ _ rfl, extract_append_low]
  · change @BitVec.extractLsb' (7 + 5 + 5 + 5 + 3 + 2 + 5) 10 5 _ = _
    rw [extract_append_high (lo := 10) (lo' := 5) (m := 5) _ _ rfl,
      extract_append_high (lo := 5) (lo' := 3) (m := 2) _ _ rfl,
      extract_append_high (lo := 3) (lo' := 0) (m := 3) _ _ rfl, extract_append_low]
  · change @BitVec.extractLsb' (7 + 5 + 5 + 5 + 3 + 2 + 5) 15 5 _ = _
    rw [extract_append_high (lo := 15) (lo' := 10) (m := 5) _ _ rfl,
      extract_append_high (lo := 10) (lo' := 8) (m := 2) _ _ rfl,
      extract_append_high (lo := 8) (lo' := 5) (m := 3) _ _ rfl,
      extract_append_high (lo := 5) (lo' := 0) (m := 5) _ _ rfl, extract_append_low]
  · change @BitVec.extractLsb' (7 + 5 + 5 + 5 + 3 + 2 + 5) 20 5 _ = _
    rw [extract_append_high (lo := 20) (lo' := 15) (m := 5) _ _ rfl,
      extract_append_high (lo := 15) (lo' := 13) (m := 2) _ _ rfl,
      extract_append_high (lo := 13) (lo' := 10) (m := 3) _ _ rfl,
      extract_append_high (lo := 10) (lo' := 5) (m := 5) _ _ rfl,
      extract_append_high (lo := 5) (lo' := 0) (m := 5) _ _ rfl, extract_append_low]
  · change @BitVec.extractLsb' (7 + 5 + 5 + 5 + 3 + 2 + 5) 25 7 _ = _
    rw [extract_append_high (lo := 25) (lo' := 20) (m := 5) _ _ rfl,
      extract_append_high (lo := 20) (lo' := 18) (m := 2) _ _ rfl,
      extract_append_high (lo := 18) (lo' := 15) (m := 3) _ _ rfl,
      extract_append_high (lo := 15) (lo' := 10) (m := 5) _ _ rfl,
      extract_append_high (lo := 10) (lo' := 5) (m := 5) _ _ rfl,
      extract_append_high (lo := 5) (lo' := 0) (m := 5) _ _ rfl, BitVec.extractLsb'_eq_self]

/-- The fields of format `G-RR`, cut back out of its word. -/
theorem formatGRR_fields (op3 : BitVec 3) (ra rb : Reg) :
    let w := formatGRR op3 ra rb
    condField w = 0#5 ∧ field w 5 2 = 3#2 ∧ field w 7 3 = op3 ∧ field w 10 5 = ra.num ∧ field w 15 5 = rb.num ∧ field w 20 12 = 0#12 := by
  simp only [condField, field, formatGRR]
  refine ⟨?_, ?_, ?_, ?_, ?_, ?_⟩
  · change @BitVec.extractLsb' (12 + 5 + 5 + 3 + 2 + 5) 0 5 _ = _
    rw [extract_append_low]
  · change @BitVec.extractLsb' (12 + 5 + 5 + 3 + 2 + 5) 5 2 _ = _
    rw [extract_append_high (lo := 5) (lo' := 0) (m := 5) _ _ rfl, extract_append_low]
  · change @BitVec.extractLsb' (12 + 5 + 5 + 3 + 2 + 5) 7 3 _ = _
    rw [extract_append_high (lo := 7) (lo' := 2) (m := 5) _ _ rfl,
      extract_append_high (lo := 2) (lo' := 0) (m := 2) _ _ rfl, extract_append_low]
  · change @BitVec.extractLsb' (12 + 5 + 5 + 3 + 2 + 5) 10 5 _ = _
    rw [extract_append_high (lo := 10) (lo' := 5) (m := 5) _ _ rfl,
      extract_append_high (lo := 5) (lo' := 3) (m := 2) _ _ rfl,
      extract_append_high (lo := 3) (lo' := 0) (m := 3) _ _ rfl, extract_append_low]
  · change @BitVec.extractLsb' (12 + 5 + 5 + 3 + 2 + 5) 15 5 _ = _
    rw [extract_append_high (lo := 15) (lo' := 10) (m := 5) _ _ rfl,
      extract_append_high (lo := 10) (lo' := 8) (m := 2) _ _ rfl,
      extract_append_high (lo := 8) (lo' := 5) (m := 3) _ _ rfl,
      extract_append_high (lo := 5) (lo' := 0) (m := 5) _ _ rfl, extract_append_low]
  · change @BitVec.extractLsb' (12 + 5 + 5 + 3 + 2 + 5) 20 12 _ = _
    rw [extract_append_high (lo := 20) (lo' := 15) (m := 5) _ _ rfl,
      extract_append_high (lo := 15) (lo' := 13) (m := 2) _ _ rfl,
      extract_append_high (lo := 13) (lo' := 10) (m := 3) _ _ rfl,
      extract_append_high (lo := 10) (lo' := 5) (m := 5) _ _ rfl,
      extract_append_high (lo := 5) (lo' := 0) (m := 5) _ _ rfl, BitVec.extractLsb'_eq_self]

/-- The fields of format `G-DIM`, cut back out of its word. -/
theorem formatGDIM_fields (op3 : BitVec 3) (w7 : BitVec 7) (h7 : BitVec 7) :
    let w := formatGDIM op3 w7 h7
    condField w = 0#5 ∧ field w 5 2 = 3#2 ∧ field w 7 3 = op3 ∧ field w 10 7 = w7 ∧ field w 17 7 = h7 ∧ field w 24 8 = 0#8 := by
  simp only [condField, field, formatGDIM]
  refine ⟨?_, ?_, ?_, ?_, ?_, ?_⟩
  · change @BitVec.extractLsb' (8 + 7 + 7 + 3 + 2 + 5) 0 5 _ = _
    rw [extract_append_low]
  · change @BitVec.extractLsb' (8 + 7 + 7 + 3 + 2 + 5) 5 2 _ = _
    rw [extract_append_high (lo := 5) (lo' := 0) (m := 5) _ _ rfl, extract_append_low]
  · change @BitVec.extractLsb' (8 + 7 + 7 + 3 + 2 + 5) 7 3 _ = _
    rw [extract_append_high (lo := 7) (lo' := 2) (m := 5) _ _ rfl,
      extract_append_high (lo := 2) (lo' := 0) (m := 2) _ _ rfl, extract_append_low]
  · change @BitVec.extractLsb' (8 + 7 + 7 + 3 + 2 + 5) 10 7 _ = _
    rw [extract_append_high (lo := 10) (lo' := 5) (m := 5) _ _ rfl,
      extract_append_high (lo := 5) (lo' := 3) (m := 2) _ _ rfl,
      extract_append_high (lo := 3) (lo' := 0) (m := 3) _ _ rfl, extract_append_low]
  · change @BitVec.extractLsb' (8 + 7 + 7 + 3 + 2 + 5) 17 7 _ = _
    rw [extract_append_high (lo := 17) (lo' := 12) (m := 5) _ _ rfl,
      extract_append_high (lo := 12) (lo' := 10) (m := 2) _ _ rfl,
      extract_append_high (lo := 10) (lo' := 7) (m := 3) _ _ rfl,
      extract_append_high (lo := 7) (lo' := 0) (m := 7) _ _ rfl, extract_append_low]
  · change @BitVec.extractLsb' (8 + 7 + 7 + 3 + 2 + 5) 24 8 _ = _
    rw [extract_append_high (lo := 24) (lo' := 19) (m := 5) _ _ rfl,
      extract_append_high (lo := 19) (lo' := 17) (m := 2) _ _ rfl,
      extract_append_high (lo := 17) (lo' := 14) (m := 3) _ _ rfl,
      extract_append_high (lo := 14) (lo' := 7) (m := 7) _ _ rfl,
      extract_append_high (lo := 7) (lo' := 0) (m := 7) _ _ rfl, BitVec.extractLsb'_eq_self]

/-- The fields of format `G-BLT`, cut back out of its word. -/
theorem formatGBLT_fields (op3 : BitVec 3) (bop4 : BitVec 4) (mask8 : BitVec 8) :
    let w := formatGBLT op3 bop4 mask8
    condField w = 0#5 ∧ field w 5 2 = 3#2 ∧ field w 7 3 = op3 ∧ field w 10 4 = bop4 ∧ field w 14 8 = mask8 ∧ field w 22 10 = 0#10 := by
  simp only [condField, field, formatGBLT]
  refine ⟨?_, ?_, ?_, ?_, ?_, ?_⟩
  · change @BitVec.extractLsb' (10 + 8 + 4 + 3 + 2 + 5) 0 5 _ = _
    rw [extract_append_low]
  · change @BitVec.extractLsb' (10 + 8 + 4 + 3 + 2 + 5) 5 2 _ = _
    rw [extract_append_high (lo := 5) (lo' := 0) (m := 5) _ _ rfl, extract_append_low]
  · change @BitVec.extractLsb' (10 + 8 + 4 + 3 + 2 + 5) 7 3 _ = _
    rw [extract_append_high (lo := 7) (lo' := 2) (m := 5) _ _ rfl,
      extract_append_high (lo := 2) (lo' := 0) (m := 2) _ _ rfl, extract_append_low]
  · change @BitVec.extractLsb' (10 + 8 + 4 + 3 + 2 + 5) 10 4 _ = _
    rw [extract_append_high (lo := 10) (lo' := 5) (m := 5) _ _ rfl,
      extract_append_high (lo := 5) (lo' := 3) (m := 2) _ _ rfl,
      extract_append_high (lo := 3) (lo' := 0) (m := 3) _ _ rfl, extract_append_low]
  · change @BitVec.extractLsb' (10 + 8 + 4 + 3 + 2 + 5) 14 8 _ = _
    rw [extract_append_high (lo := 14) (lo' := 9) (m := 5) _ _ rfl,
      extract_append_high (lo := 9) (lo' := 7) (m := 2) _ _ rfl,
      extract_append_high (lo := 7) (lo' := 4) (m := 3) _ _ rfl,
      extract_append_high (lo := 4) (lo' := 0) (m := 4) _ _ rfl, extract_append_low]
  · change @BitVec.extractLsb' (10 + 8 + 4 + 3 + 2 + 5) 22 10 _ = _
    rw [extract_append_high (lo := 22) (lo' := 17) (m := 5) _ _ rfl,
      extract_append_high (lo := 17) (lo' := 15) (m := 2) _ _ rfl,
      extract_append_high (lo := 15) (lo' := 12) (m := 3) _ _ rfl,
      extract_append_high (lo := 12) (lo' := 8) (m := 4) _ _ rfl,
      extract_append_high (lo := 8) (lo' := 0) (m := 8) _ _ rfl, BitVec.extractLsb'_eq_self]

end Sys2Proof
end

