-- ==== Sys2Proof/Laws/State.lean ====
section
/-! SUPPORT. What each named update does to each field, so that no later proof unfolds a record update. -/

namespace Sys2Proof.Machine.State

variable (s : State)

@[simp] theorem withGpr_gpr (n : Fin 26) (v : Word) : (s.withGpr n v).gpr = s.gpr.set n v := rfl
@[simp] theorem withGpr_intlr (n : Fin 26) (v : Word) : (s.withGpr n v).intlr = s.intlr := rfl
@[simp] theorem withGpr_ihdlr (n : Fin 26) (v : Word) : (s.withGpr n v).ihdlr = s.ihdlr := rfl
@[simp] theorem withGpr_pc (n : Fin 26) (v : Word) : (s.withGpr n v).pc = s.pc := rfl
@[simp] theorem withGpr_sts (n : Fin 26) (v : Word) : (s.withGpr n v).sts = s.sts := rfl
@[simp] theorem withGpr_sp (n : Fin 26) (v : Word) : (s.withGpr n v).sp = s.sp := rfl
@[simp] theorem withGpr_lr (n : Fin 26) (v : Word) : (s.withGpr n v).lr = s.lr := rfl
@[simp] theorem withGpr_halted (n : Fin 26) (v : Word) : (s.withGpr n v).halted = s.halted := rfl
@[simp] theorem withGpr_blSrc (n : Fin 26) (v : Word) : (s.withGpr n v).blSrc = s.blSrc := rfl
@[simp] theorem withGpr_blDst (n : Fin 26) (v : Word) : (s.withGpr n v).blDst = s.blDst := rfl
@[simp] theorem withGpr_blW (n : Fin 26) (v : Word) : (s.withGpr n v).blW = s.blW := rfl
@[simp] theorem withGpr_blH (n : Fin 26) (v : Word) : (s.withGpr n v).blH = s.blH := rfl
@[simp] theorem withGpr_main (n : Fin 26) (v : Word) : (s.withGpr n v).main = s.main := rfl
@[simp] theorem withGpr_sprite (n : Fin 26) (v : Word) : (s.withGpr n v).sprite = s.sprite := rfl
@[simp] theorem withGpr_frame (n : Fin 26) (v : Word) : (s.withGpr n v).frame = s.frame := rfl
@[simp] theorem withGpr_freeDraws (n : Fin 26) (v : Word) : (s.withGpr n v).freeDraws = s.freeDraws := rfl
@[simp] theorem withGpr_keyTape (n : Fin 26) (v : Word) : (s.withGpr n v).keyTape = s.keyTape := rfl

@[simp] theorem withIntlr_gpr (v : Word) : (s.withIntlr v).gpr = s.gpr := rfl
@[simp] theorem withIntlr_intlr (v : Word) : (s.withIntlr v).intlr = v := rfl
@[simp] theorem withIntlr_ihdlr (v : Word) : (s.withIntlr v).ihdlr = s.ihdlr := rfl
@[simp] theorem withIntlr_pc (v : Word) : (s.withIntlr v).pc = s.pc := rfl
@[simp] theorem withIntlr_sts (v : Word) : (s.withIntlr v).sts = s.sts := rfl
@[simp] theorem withIntlr_sp (v : Word) : (s.withIntlr v).sp = s.sp := rfl
@[simp] theorem withIntlr_lr (v : Word) : (s.withIntlr v).lr = s.lr := rfl
@[simp] theorem withIntlr_halted (v : Word) : (s.withIntlr v).halted = s.halted := rfl
@[simp] theorem withIntlr_blSrc (v : Word) : (s.withIntlr v).blSrc = s.blSrc := rfl
@[simp] theorem withIntlr_blDst (v : Word) : (s.withIntlr v).blDst = s.blDst := rfl
@[simp] theorem withIntlr_blW (v : Word) : (s.withIntlr v).blW = s.blW := rfl
@[simp] theorem withIntlr_blH (v : Word) : (s.withIntlr v).blH = s.blH := rfl
@[simp] theorem withIntlr_main (v : Word) : (s.withIntlr v).main = s.main := rfl
@[simp] theorem withIntlr_sprite (v : Word) : (s.withIntlr v).sprite = s.sprite := rfl
@[simp] theorem withIntlr_frame (v : Word) : (s.withIntlr v).frame = s.frame := rfl
@[simp] theorem withIntlr_freeDraws (v : Word) : (s.withIntlr v).freeDraws = s.freeDraws := rfl
@[simp] theorem withIntlr_keyTape (v : Word) : (s.withIntlr v).keyTape = s.keyTape := rfl

@[simp] theorem withIhdlr_gpr (v : Word) : (s.withIhdlr v).gpr = s.gpr := rfl
@[simp] theorem withIhdlr_intlr (v : Word) : (s.withIhdlr v).intlr = s.intlr := rfl
@[simp] theorem withIhdlr_ihdlr (v : Word) : (s.withIhdlr v).ihdlr = v := rfl
@[simp] theorem withIhdlr_pc (v : Word) : (s.withIhdlr v).pc = s.pc := rfl
@[simp] theorem withIhdlr_sts (v : Word) : (s.withIhdlr v).sts = s.sts := rfl
@[simp] theorem withIhdlr_sp (v : Word) : (s.withIhdlr v).sp = s.sp := rfl
@[simp] theorem withIhdlr_lr (v : Word) : (s.withIhdlr v).lr = s.lr := rfl
@[simp] theorem withIhdlr_halted (v : Word) : (s.withIhdlr v).halted = s.halted := rfl
@[simp] theorem withIhdlr_blSrc (v : Word) : (s.withIhdlr v).blSrc = s.blSrc := rfl
@[simp] theorem withIhdlr_blDst (v : Word) : (s.withIhdlr v).blDst = s.blDst := rfl
@[simp] theorem withIhdlr_blW (v : Word) : (s.withIhdlr v).blW = s.blW := rfl
@[simp] theorem withIhdlr_blH (v : Word) : (s.withIhdlr v).blH = s.blH := rfl
@[simp] theorem withIhdlr_main (v : Word) : (s.withIhdlr v).main = s.main := rfl
@[simp] theorem withIhdlr_sprite (v : Word) : (s.withIhdlr v).sprite = s.sprite := rfl
@[simp] theorem withIhdlr_frame (v : Word) : (s.withIhdlr v).frame = s.frame := rfl
@[simp] theorem withIhdlr_freeDraws (v : Word) : (s.withIhdlr v).freeDraws = s.freeDraws := rfl
@[simp] theorem withIhdlr_keyTape (v : Word) : (s.withIhdlr v).keyTape = s.keyTape := rfl

@[simp] theorem withPc_gpr (v : Word) : (s.withPc v).gpr = s.gpr := rfl
@[simp] theorem withPc_intlr (v : Word) : (s.withPc v).intlr = s.intlr := rfl
@[simp] theorem withPc_ihdlr (v : Word) : (s.withPc v).ihdlr = s.ihdlr := rfl
@[simp] theorem withPc_pc (v : Word) : (s.withPc v).pc = v := rfl
@[simp] theorem withPc_sts (v : Word) : (s.withPc v).sts = s.sts := rfl
@[simp] theorem withPc_sp (v : Word) : (s.withPc v).sp = s.sp := rfl
@[simp] theorem withPc_lr (v : Word) : (s.withPc v).lr = s.lr := rfl
@[simp] theorem withPc_halted (v : Word) : (s.withPc v).halted = s.halted := rfl
@[simp] theorem withPc_blSrc (v : Word) : (s.withPc v).blSrc = s.blSrc := rfl
@[simp] theorem withPc_blDst (v : Word) : (s.withPc v).blDst = s.blDst := rfl
@[simp] theorem withPc_blW (v : Word) : (s.withPc v).blW = s.blW := rfl
@[simp] theorem withPc_blH (v : Word) : (s.withPc v).blH = s.blH := rfl
@[simp] theorem withPc_main (v : Word) : (s.withPc v).main = s.main := rfl
@[simp] theorem withPc_sprite (v : Word) : (s.withPc v).sprite = s.sprite := rfl
@[simp] theorem withPc_frame (v : Word) : (s.withPc v).frame = s.frame := rfl
@[simp] theorem withPc_freeDraws (v : Word) : (s.withPc v).freeDraws = s.freeDraws := rfl
@[simp] theorem withPc_keyTape (v : Word) : (s.withPc v).keyTape = s.keyTape := rfl

@[simp] theorem withSts_gpr (v : BitVec 6) : (s.withSts v).gpr = s.gpr := rfl
@[simp] theorem withSts_intlr (v : BitVec 6) : (s.withSts v).intlr = s.intlr := rfl
@[simp] theorem withSts_ihdlr (v : BitVec 6) : (s.withSts v).ihdlr = s.ihdlr := rfl
@[simp] theorem withSts_pc (v : BitVec 6) : (s.withSts v).pc = s.pc := rfl
@[simp] theorem withSts_sts (v : BitVec 6) : (s.withSts v).sts = v := rfl
@[simp] theorem withSts_sp (v : BitVec 6) : (s.withSts v).sp = s.sp := rfl
@[simp] theorem withSts_lr (v : BitVec 6) : (s.withSts v).lr = s.lr := rfl
@[simp] theorem withSts_halted (v : BitVec 6) : (s.withSts v).halted = s.halted := rfl
@[simp] theorem withSts_blSrc (v : BitVec 6) : (s.withSts v).blSrc = s.blSrc := rfl
@[simp] theorem withSts_blDst (v : BitVec 6) : (s.withSts v).blDst = s.blDst := rfl
@[simp] theorem withSts_blW (v : BitVec 6) : (s.withSts v).blW = s.blW := rfl
@[simp] theorem withSts_blH (v : BitVec 6) : (s.withSts v).blH = s.blH := rfl
@[simp] theorem withSts_main (v : BitVec 6) : (s.withSts v).main = s.main := rfl
@[simp] theorem withSts_sprite (v : BitVec 6) : (s.withSts v).sprite = s.sprite := rfl
@[simp] theorem withSts_frame (v : BitVec 6) : (s.withSts v).frame = s.frame := rfl
@[simp] theorem withSts_freeDraws (v : BitVec 6) : (s.withSts v).freeDraws = s.freeDraws := rfl
@[simp] theorem withSts_keyTape (v : BitVec 6) : (s.withSts v).keyTape = s.keyTape := rfl

@[simp] theorem withSp_gpr (v : Word) : (s.withSp v).gpr = s.gpr := rfl
@[simp] theorem withSp_intlr (v : Word) : (s.withSp v).intlr = s.intlr := rfl
@[simp] theorem withSp_ihdlr (v : Word) : (s.withSp v).ihdlr = s.ihdlr := rfl
@[simp] theorem withSp_pc (v : Word) : (s.withSp v).pc = s.pc := rfl
@[simp] theorem withSp_sts (v : Word) : (s.withSp v).sts = s.sts := rfl
@[simp] theorem withSp_sp (v : Word) : (s.withSp v).sp = v := rfl
@[simp] theorem withSp_lr (v : Word) : (s.withSp v).lr = s.lr := rfl
@[simp] theorem withSp_halted (v : Word) : (s.withSp v).halted = s.halted := rfl
@[simp] theorem withSp_blSrc (v : Word) : (s.withSp v).blSrc = s.blSrc := rfl
@[simp] theorem withSp_blDst (v : Word) : (s.withSp v).blDst = s.blDst := rfl
@[simp] theorem withSp_blW (v : Word) : (s.withSp v).blW = s.blW := rfl
@[simp] theorem withSp_blH (v : Word) : (s.withSp v).blH = s.blH := rfl
@[simp] theorem withSp_main (v : Word) : (s.withSp v).main = s.main := rfl
@[simp] theorem withSp_sprite (v : Word) : (s.withSp v).sprite = s.sprite := rfl
@[simp] theorem withSp_frame (v : Word) : (s.withSp v).frame = s.frame := rfl
@[simp] theorem withSp_freeDraws (v : Word) : (s.withSp v).freeDraws = s.freeDraws := rfl
@[simp] theorem withSp_keyTape (v : Word) : (s.withSp v).keyTape = s.keyTape := rfl

@[simp] theorem withLr_gpr (v : Word) : (s.withLr v).gpr = s.gpr := rfl
@[simp] theorem withLr_intlr (v : Word) : (s.withLr v).intlr = s.intlr := rfl
@[simp] theorem withLr_ihdlr (v : Word) : (s.withLr v).ihdlr = s.ihdlr := rfl
@[simp] theorem withLr_pc (v : Word) : (s.withLr v).pc = s.pc := rfl
@[simp] theorem withLr_sts (v : Word) : (s.withLr v).sts = s.sts := rfl
@[simp] theorem withLr_sp (v : Word) : (s.withLr v).sp = s.sp := rfl
@[simp] theorem withLr_lr (v : Word) : (s.withLr v).lr = v := rfl
@[simp] theorem withLr_halted (v : Word) : (s.withLr v).halted = s.halted := rfl
@[simp] theorem withLr_blSrc (v : Word) : (s.withLr v).blSrc = s.blSrc := rfl
@[simp] theorem withLr_blDst (v : Word) : (s.withLr v).blDst = s.blDst := rfl
@[simp] theorem withLr_blW (v : Word) : (s.withLr v).blW = s.blW := rfl
@[simp] theorem withLr_blH (v : Word) : (s.withLr v).blH = s.blH := rfl
@[simp] theorem withLr_main (v : Word) : (s.withLr v).main = s.main := rfl
@[simp] theorem withLr_sprite (v : Word) : (s.withLr v).sprite = s.sprite := rfl
@[simp] theorem withLr_frame (v : Word) : (s.withLr v).frame = s.frame := rfl
@[simp] theorem withLr_freeDraws (v : Word) : (s.withLr v).freeDraws = s.freeDraws := rfl
@[simp] theorem withLr_keyTape (v : Word) : (s.withLr v).keyTape = s.keyTape := rfl

@[simp] theorem withHalted_gpr (b : Bool) : (s.withHalted b).gpr = s.gpr := rfl
@[simp] theorem withHalted_intlr (b : Bool) : (s.withHalted b).intlr = s.intlr := rfl
@[simp] theorem withHalted_ihdlr (b : Bool) : (s.withHalted b).ihdlr = s.ihdlr := rfl
@[simp] theorem withHalted_pc (b : Bool) : (s.withHalted b).pc = s.pc := rfl
@[simp] theorem withHalted_sts (b : Bool) : (s.withHalted b).sts = s.sts := rfl
@[simp] theorem withHalted_sp (b : Bool) : (s.withHalted b).sp = s.sp := rfl
@[simp] theorem withHalted_lr (b : Bool) : (s.withHalted b).lr = s.lr := rfl
@[simp] theorem withHalted_halted (b : Bool) : (s.withHalted b).halted = b := rfl
@[simp] theorem withHalted_blSrc (b : Bool) : (s.withHalted b).blSrc = s.blSrc := rfl
@[simp] theorem withHalted_blDst (b : Bool) : (s.withHalted b).blDst = s.blDst := rfl
@[simp] theorem withHalted_blW (b : Bool) : (s.withHalted b).blW = s.blW := rfl
@[simp] theorem withHalted_blH (b : Bool) : (s.withHalted b).blH = s.blH := rfl
@[simp] theorem withHalted_main (b : Bool) : (s.withHalted b).main = s.main := rfl
@[simp] theorem withHalted_sprite (b : Bool) : (s.withHalted b).sprite = s.sprite := rfl
@[simp] theorem withHalted_frame (b : Bool) : (s.withHalted b).frame = s.frame := rfl
@[simp] theorem withHalted_freeDraws (b : Bool) : (s.withHalted b).freeDraws = s.freeDraws := rfl
@[simp] theorem withHalted_keyTape (b : Bool) : (s.withHalted b).keyTape = s.keyTape := rfl

@[simp] theorem withBlitMem_gpr (p : BitVec 12) (q : BitVec 16) : (s.withBlitMem p q).gpr = s.gpr := rfl
@[simp] theorem withBlitMem_intlr (p : BitVec 12) (q : BitVec 16) : (s.withBlitMem p q).intlr = s.intlr := rfl
@[simp] theorem withBlitMem_ihdlr (p : BitVec 12) (q : BitVec 16) : (s.withBlitMem p q).ihdlr = s.ihdlr := rfl
@[simp] theorem withBlitMem_pc (p : BitVec 12) (q : BitVec 16) : (s.withBlitMem p q).pc = s.pc := rfl
@[simp] theorem withBlitMem_sts (p : BitVec 12) (q : BitVec 16) : (s.withBlitMem p q).sts = s.sts := rfl
@[simp] theorem withBlitMem_sp (p : BitVec 12) (q : BitVec 16) : (s.withBlitMem p q).sp = s.sp := rfl
@[simp] theorem withBlitMem_lr (p : BitVec 12) (q : BitVec 16) : (s.withBlitMem p q).lr = s.lr := rfl
@[simp] theorem withBlitMem_halted (p : BitVec 12) (q : BitVec 16) : (s.withBlitMem p q).halted = s.halted := rfl
@[simp] theorem withBlitMem_blSrc (p : BitVec 12) (q : BitVec 16) : (s.withBlitMem p q).blSrc = p := rfl
@[simp] theorem withBlitMem_blDst (p : BitVec 12) (q : BitVec 16) : (s.withBlitMem p q).blDst = q := rfl
@[simp] theorem withBlitMem_blW (p : BitVec 12) (q : BitVec 16) : (s.withBlitMem p q).blW = s.blW := rfl
@[simp] theorem withBlitMem_blH (p : BitVec 12) (q : BitVec 16) : (s.withBlitMem p q).blH = s.blH := rfl
@[simp] theorem withBlitMem_main (p : BitVec 12) (q : BitVec 16) : (s.withBlitMem p q).main = s.main := rfl
@[simp] theorem withBlitMem_sprite (p : BitVec 12) (q : BitVec 16) : (s.withBlitMem p q).sprite = s.sprite := rfl
@[simp] theorem withBlitMem_frame (p : BitVec 12) (q : BitVec 16) : (s.withBlitMem p q).frame = s.frame := rfl
@[simp] theorem withBlitMem_freeDraws (p : BitVec 12) (q : BitVec 16) : (s.withBlitMem p q).freeDraws = s.freeDraws := rfl
@[simp] theorem withBlitMem_keyTape (p : BitVec 12) (q : BitVec 16) : (s.withBlitMem p q).keyTape = s.keyTape := rfl

@[simp] theorem withBlitDims_gpr (w h : BitVec 7) : (s.withBlitDims w h).gpr = s.gpr := rfl
@[simp] theorem withBlitDims_intlr (w h : BitVec 7) : (s.withBlitDims w h).intlr = s.intlr := rfl
@[simp] theorem withBlitDims_ihdlr (w h : BitVec 7) : (s.withBlitDims w h).ihdlr = s.ihdlr := rfl
@[simp] theorem withBlitDims_pc (w h : BitVec 7) : (s.withBlitDims w h).pc = s.pc := rfl
@[simp] theorem withBlitDims_sts (w h : BitVec 7) : (s.withBlitDims w h).sts = s.sts := rfl
@[simp] theorem withBlitDims_sp (w h : BitVec 7) : (s.withBlitDims w h).sp = s.sp := rfl
@[simp] theorem withBlitDims_lr (w h : BitVec 7) : (s.withBlitDims w h).lr = s.lr := rfl
@[simp] theorem withBlitDims_halted (w h : BitVec 7) : (s.withBlitDims w h).halted = s.halted := rfl
@[simp] theorem withBlitDims_blSrc (w h : BitVec 7) : (s.withBlitDims w h).blSrc = s.blSrc := rfl
@[simp] theorem withBlitDims_blDst (w h : BitVec 7) : (s.withBlitDims w h).blDst = s.blDst := rfl
@[simp] theorem withBlitDims_blW (w h : BitVec 7) : (s.withBlitDims w h).blW = w := rfl
@[simp] theorem withBlitDims_blH (w h : BitVec 7) : (s.withBlitDims w h).blH = h := rfl
@[simp] theorem withBlitDims_main (w h : BitVec 7) : (s.withBlitDims w h).main = s.main := rfl
@[simp] theorem withBlitDims_sprite (w h : BitVec 7) : (s.withBlitDims w h).sprite = s.sprite := rfl
@[simp] theorem withBlitDims_frame (w h : BitVec 7) : (s.withBlitDims w h).frame = s.frame := rfl
@[simp] theorem withBlitDims_freeDraws (w h : BitVec 7) : (s.withBlitDims w h).freeDraws = s.freeDraws := rfl
@[simp] theorem withBlitDims_keyTape (w h : BitVec 7) : (s.withBlitDims w h).keyTape = s.keyTape := rfl

@[simp] theorem withMain_gpr (m : Memory) : (s.withMain m).gpr = s.gpr := rfl
@[simp] theorem withMain_intlr (m : Memory) : (s.withMain m).intlr = s.intlr := rfl
@[simp] theorem withMain_ihdlr (m : Memory) : (s.withMain m).ihdlr = s.ihdlr := rfl
@[simp] theorem withMain_pc (m : Memory) : (s.withMain m).pc = s.pc := rfl
@[simp] theorem withMain_sts (m : Memory) : (s.withMain m).sts = s.sts := rfl
@[simp] theorem withMain_sp (m : Memory) : (s.withMain m).sp = s.sp := rfl
@[simp] theorem withMain_lr (m : Memory) : (s.withMain m).lr = s.lr := rfl
@[simp] theorem withMain_halted (m : Memory) : (s.withMain m).halted = s.halted := rfl
@[simp] theorem withMain_blSrc (m : Memory) : (s.withMain m).blSrc = s.blSrc := rfl
@[simp] theorem withMain_blDst (m : Memory) : (s.withMain m).blDst = s.blDst := rfl
@[simp] theorem withMain_blW (m : Memory) : (s.withMain m).blW = s.blW := rfl
@[simp] theorem withMain_blH (m : Memory) : (s.withMain m).blH = s.blH := rfl
@[simp] theorem withMain_main (m : Memory) : (s.withMain m).main = m := rfl
@[simp] theorem withMain_sprite (m : Memory) : (s.withMain m).sprite = s.sprite := rfl
@[simp] theorem withMain_frame (m : Memory) : (s.withMain m).frame = s.frame := rfl
@[simp] theorem withMain_freeDraws (m : Memory) : (s.withMain m).freeDraws = s.freeDraws := rfl
@[simp] theorem withMain_keyTape (m : Memory) : (s.withMain m).keyTape = s.keyTape := rfl

@[simp] theorem withSprite_gpr (m : Memory) : (s.withSprite m).gpr = s.gpr := rfl
@[simp] theorem withSprite_intlr (m : Memory) : (s.withSprite m).intlr = s.intlr := rfl
@[simp] theorem withSprite_ihdlr (m : Memory) : (s.withSprite m).ihdlr = s.ihdlr := rfl
@[simp] theorem withSprite_pc (m : Memory) : (s.withSprite m).pc = s.pc := rfl
@[simp] theorem withSprite_sts (m : Memory) : (s.withSprite m).sts = s.sts := rfl
@[simp] theorem withSprite_sp (m : Memory) : (s.withSprite m).sp = s.sp := rfl
@[simp] theorem withSprite_lr (m : Memory) : (s.withSprite m).lr = s.lr := rfl
@[simp] theorem withSprite_halted (m : Memory) : (s.withSprite m).halted = s.halted := rfl
@[simp] theorem withSprite_blSrc (m : Memory) : (s.withSprite m).blSrc = s.blSrc := rfl
@[simp] theorem withSprite_blDst (m : Memory) : (s.withSprite m).blDst = s.blDst := rfl
@[simp] theorem withSprite_blW (m : Memory) : (s.withSprite m).blW = s.blW := rfl
@[simp] theorem withSprite_blH (m : Memory) : (s.withSprite m).blH = s.blH := rfl
@[simp] theorem withSprite_main (m : Memory) : (s.withSprite m).main = s.main := rfl
@[simp] theorem withSprite_sprite (m : Memory) : (s.withSprite m).sprite = m := rfl
@[simp] theorem withSprite_frame (m : Memory) : (s.withSprite m).frame = s.frame := rfl
@[simp] theorem withSprite_freeDraws (m : Memory) : (s.withSprite m).freeDraws = s.freeDraws := rfl
@[simp] theorem withSprite_keyTape (m : Memory) : (s.withSprite m).keyTape = s.keyTape := rfl

@[simp] theorem withFrame_gpr (m : Memory) : (s.withFrame m).gpr = s.gpr := rfl
@[simp] theorem withFrame_intlr (m : Memory) : (s.withFrame m).intlr = s.intlr := rfl
@[simp] theorem withFrame_ihdlr (m : Memory) : (s.withFrame m).ihdlr = s.ihdlr := rfl
@[simp] theorem withFrame_pc (m : Memory) : (s.withFrame m).pc = s.pc := rfl
@[simp] theorem withFrame_sts (m : Memory) : (s.withFrame m).sts = s.sts := rfl
@[simp] theorem withFrame_sp (m : Memory) : (s.withFrame m).sp = s.sp := rfl
@[simp] theorem withFrame_lr (m : Memory) : (s.withFrame m).lr = s.lr := rfl
@[simp] theorem withFrame_halted (m : Memory) : (s.withFrame m).halted = s.halted := rfl
@[simp] theorem withFrame_blSrc (m : Memory) : (s.withFrame m).blSrc = s.blSrc := rfl
@[simp] theorem withFrame_blDst (m : Memory) : (s.withFrame m).blDst = s.blDst := rfl
@[simp] theorem withFrame_blW (m : Memory) : (s.withFrame m).blW = s.blW := rfl
@[simp] theorem withFrame_blH (m : Memory) : (s.withFrame m).blH = s.blH := rfl
@[simp] theorem withFrame_main (m : Memory) : (s.withFrame m).main = s.main := rfl
@[simp] theorem withFrame_sprite (m : Memory) : (s.withFrame m).sprite = s.sprite := rfl
@[simp] theorem withFrame_frame (m : Memory) : (s.withFrame m).frame = m := rfl
@[simp] theorem withFrame_freeDraws (m : Memory) : (s.withFrame m).freeDraws = s.freeDraws := rfl
@[simp] theorem withFrame_keyTape (m : Memory) : (s.withFrame m).keyTape = s.keyTape := rfl

@[simp] theorem withFreeDraws_gpr (n : Nat) : (s.withFreeDraws n).gpr = s.gpr := rfl
@[simp] theorem withFreeDraws_intlr (n : Nat) : (s.withFreeDraws n).intlr = s.intlr := rfl
@[simp] theorem withFreeDraws_ihdlr (n : Nat) : (s.withFreeDraws n).ihdlr = s.ihdlr := rfl
@[simp] theorem withFreeDraws_pc (n : Nat) : (s.withFreeDraws n).pc = s.pc := rfl
@[simp] theorem withFreeDraws_sts (n : Nat) : (s.withFreeDraws n).sts = s.sts := rfl
@[simp] theorem withFreeDraws_sp (n : Nat) : (s.withFreeDraws n).sp = s.sp := rfl
@[simp] theorem withFreeDraws_lr (n : Nat) : (s.withFreeDraws n).lr = s.lr := rfl
@[simp] theorem withFreeDraws_halted (n : Nat) : (s.withFreeDraws n).halted = s.halted := rfl
@[simp] theorem withFreeDraws_blSrc (n : Nat) : (s.withFreeDraws n).blSrc = s.blSrc := rfl
@[simp] theorem withFreeDraws_blDst (n : Nat) : (s.withFreeDraws n).blDst = s.blDst := rfl
@[simp] theorem withFreeDraws_blW (n : Nat) : (s.withFreeDraws n).blW = s.blW := rfl
@[simp] theorem withFreeDraws_blH (n : Nat) : (s.withFreeDraws n).blH = s.blH := rfl
@[simp] theorem withFreeDraws_main (n : Nat) : (s.withFreeDraws n).main = s.main := rfl
@[simp] theorem withFreeDraws_sprite (n : Nat) : (s.withFreeDraws n).sprite = s.sprite := rfl
@[simp] theorem withFreeDraws_frame (n : Nat) : (s.withFreeDraws n).frame = s.frame := rfl
@[simp] theorem withFreeDraws_freeDraws (n : Nat) : (s.withFreeDraws n).freeDraws = n := rfl
@[simp] theorem withFreeDraws_keyTape (n : Nat) : (s.withFreeDraws n).keyTape = s.keyTape := rfl

@[simp] theorem withKeyTape_gpr (t : List (Option Key)) : (s.withKeyTape t).gpr = s.gpr := rfl
@[simp] theorem withKeyTape_intlr (t : List (Option Key)) : (s.withKeyTape t).intlr = s.intlr := rfl
@[simp] theorem withKeyTape_ihdlr (t : List (Option Key)) : (s.withKeyTape t).ihdlr = s.ihdlr := rfl
@[simp] theorem withKeyTape_pc (t : List (Option Key)) : (s.withKeyTape t).pc = s.pc := rfl
@[simp] theorem withKeyTape_sts (t : List (Option Key)) : (s.withKeyTape t).sts = s.sts := rfl
@[simp] theorem withKeyTape_sp (t : List (Option Key)) : (s.withKeyTape t).sp = s.sp := rfl
@[simp] theorem withKeyTape_lr (t : List (Option Key)) : (s.withKeyTape t).lr = s.lr := rfl
@[simp] theorem withKeyTape_halted (t : List (Option Key)) : (s.withKeyTape t).halted = s.halted := rfl
@[simp] theorem withKeyTape_blSrc (t : List (Option Key)) : (s.withKeyTape t).blSrc = s.blSrc := rfl
@[simp] theorem withKeyTape_blDst (t : List (Option Key)) : (s.withKeyTape t).blDst = s.blDst := rfl
@[simp] theorem withKeyTape_blW (t : List (Option Key)) : (s.withKeyTape t).blW = s.blW := rfl
@[simp] theorem withKeyTape_blH (t : List (Option Key)) : (s.withKeyTape t).blH = s.blH := rfl
@[simp] theorem withKeyTape_main (t : List (Option Key)) : (s.withKeyTape t).main = s.main := rfl
@[simp] theorem withKeyTape_sprite (t : List (Option Key)) : (s.withKeyTape t).sprite = s.sprite := rfl
@[simp] theorem withKeyTape_frame (t : List (Option Key)) : (s.withKeyTape t).frame = s.frame := rfl
@[simp] theorem withKeyTape_freeDraws (t : List (Option Key)) : (s.withKeyTape t).freeDraws = s.freeDraws := rfl
@[simp] theorem withKeyTape_keyTape (t : List (Option Key)) : (s.withKeyTape t).keyTape = t := rfl

end Sys2Proof.Machine.State
end

