-- ==== Sys2Proof/Laws/Memory.lean ====
section
/-!
SUPPORT. The laws of memory: read after write, the canonical form kept by every operation, and words over bytes.
-/

namespace Sys2Proof.Machine

/-! Bytes. -/

theorem Memory.find_put (m : Memory) (a b : Nat) (v : Byte) :
    Memory.find (m.put a v) b = if a = b then some v else Memory.find m b := by
  induction m with
  | nil => simp [Memory.put, Memory.find]
  | cons x m ih =>
    obtain ⟨c, w⟩ := x
    rw [Memory.put]
    split
    · simp [Memory.find]
    · split
      · subst_vars
        simp only [Memory.find]
        split <;> rfl
      · simp only [Memory.find, ih]
        split <;> split <;> simp_all

@[simp] theorem Memory.find_put_same (m : Memory) (a : Nat) (v : Byte) : Memory.find (m.put a v) a = some v := by
  simp [Memory.find_put]

theorem Memory.read_put (u : Nat → Byte) (m : Memory) (a b : Nat) (v : Byte) :
    Memory.read u (m.put a v) b = if a = b then v else Memory.read u m b := by
  unfold Memory.read
  rw [Memory.find_put]
  split <;> rfl

@[simp] theorem Memory.read_put_same (u : Nat → Byte) (m : Memory) (a : Nat) (v : Byte) :
    Memory.read u (m.put a v) a = v := by simp [Memory.read_put]

theorem Memory.read_put_other (u : Nat → Byte) (m : Memory) {a b : Nat} (v : Byte) (h : a ≠ b) :
    Memory.read u (m.put a v) b = Memory.read u m b := by simp [Memory.read_put, h]

/-! The canonical form. -/

theorem Memory.rising_tail {x : Host.Cell} {m : Memory} (h : Memory.rising (x :: m) = true) :
    Memory.rising m = true := by
  cases m with
  | nil => rfl
  | cons y m => simp only [Memory.rising, Bool.and_eq_true] at h; exact h.2

theorem Memory.rising_cons {x : Host.Cell} {m : Memory} :
    Memory.rising (x :: m) = true ↔ (∀ y ∈ m, x.1 < y.1) ∧ Memory.rising m = true := by
  induction m generalizing x with
  | nil => simp [Memory.rising]
  | cons y m ih =>
    simp only [Memory.rising, Bool.and_eq_true, decide_eq_true_eq, List.mem_cons, forall_eq_or_imp]
    constructor
    · rintro ⟨hxy, hy⟩
      exact ⟨⟨hxy, fun z hz => lt_trans hxy ((ih.1 hy).1 z hz)⟩, hy⟩
    · rintro ⟨⟨hxy, _⟩, hy⟩
      exact ⟨hxy, hy⟩

/-- The addresses a write leaves listed: the old ones and its own. -/
theorem Memory.mem_put {m : Memory} {a : Nat} {v : Byte} {c : Host.Cell} (h : c ∈ m.put a v) :
    c = (a, v) ∨ c ∈ m := by
  induction m with
  | nil => simpa [Memory.put] using h
  | cons x m ih =>
    obtain ⟨b, w⟩ := x
    rw [Memory.put] at h
    split at h
    · simpa using h
    · split at h
      · rcases List.mem_cons.1 h with h | h
        · exact .inl h
        · exact .inr (List.mem_cons_of_mem _ h)
      · rcases List.mem_cons.1 h with h | h
        · exact .inr (h ▸ List.mem_cons_self)
        · exact (ih h).imp id (List.mem_cons_of_mem _)

theorem Memory.rising_put {m : Memory} (a : Nat) (v : Byte) (h : Memory.rising m = true) :
    Memory.rising (m.put a v) = true := by
  induction m with
  | nil => rfl
  | cons x m ih =>
    obtain ⟨b, w⟩ := x
    have ⟨hb, hm⟩ := Memory.rising_cons.1 h
    rw [Memory.put]
    split
    · next hab =>
      refine Memory.rising_cons.2 ⟨?_, h⟩
      intro y hy
      rcases List.mem_cons.1 hy with rfl | hy
      · exact hab
      · exact lt_trans hab (hb y hy)
    · split
      · next _ hab => subst hab; exact Memory.rising_cons.2 ⟨hb, hm⟩
      · next hlt hne =>
        refine Memory.rising_cons.2 ⟨?_, ih hm⟩
        intro y hy
        rcases Memory.mem_put hy with rfl | hy
        · exact lt_of_le_of_ne (not_lt.1 hlt) (Ne.symm hne)
        · exact hb y hy

/-- A write within the size keeps the canonical form. -/
theorem Memory.wf_put {size : Nat} {m : Memory} {a : Nat} (v : Byte) (h : Memory.wf size m = true) (ha : a < size) :
    Memory.wf size (m.put a v) = true := by
  simp only [Memory.wf, Bool.and_eq_true, List.all_eq_true, decide_eq_true_eq] at h ⊢
  refine ⟨Memory.rising_put a v h.1, fun c hc => ?_⟩
  rcases Memory.mem_put hc with rfl | hc
  · exact ha
  · exact h.2 c hc

theorem Memory.find_eq_none_of_lt {m : Memory} {a : Nat} (h : ∀ y ∈ m, a < y.1) : Memory.find m a = none := by
  induction m with
  | nil => rfl
  | cons x m ih =>
    have := h x List.mem_cons_self
    rw [Memory.find, if_neg (by omega)]
    exact ih fun y hy => h y (List.mem_cons_of_mem _ hy)

/-- Canonical memories that hold the same known bytes are the same list. -/
theorem Memory.eq_of_find_eq {m m' : Memory} (h : Memory.rising m = true) (h' : Memory.rising m' = true)
    (hf : ∀ a, Memory.find m a = Memory.find m' a) : m = m' := by
  induction m generalizing m' with
  | nil =>
    cases m' with
    | nil => rfl
    | cons y m' => have := hf y.1; simp [Memory.find] at this
  | cons x m ih =>
    cases m' with
    | nil => have := hf x.1; simp [Memory.find] at this
    | cons y m' =>
      obtain ⟨a, v⟩ := x
      obtain ⟨b, w⟩ := y
      have ⟨ha, hm⟩ := Memory.rising_cons.1 h
      have ⟨hb, hm'⟩ := Memory.rising_cons.1 h'
      have hab : a = b := by
        rcases lt_trichotomy a b with hlt | heq | hgt
        · have := hf a
          rw [Memory.find_eq_none_of_lt (m := (b, w) :: m')] at this
          · simp [Memory.find] at this
          · intro y hy
            rcases List.mem_cons.1 hy with rfl | hy
            · exact hlt
            · exact lt_trans hlt (hb y hy)
        · exact heq
        · have := hf b
          rw [Memory.find_eq_none_of_lt (m := (a, v) :: m)] at this
          · simp [Memory.find] at this
          · intro y hy
            rcases List.mem_cons.1 hy with rfl | hy
            · exact hgt
            · exact lt_trans hgt (ha y hy)
      subst hab
      have hvw : v = w := by have := hf a; simpa [Memory.find] using this
      subst hvw
      congr 1
      refine ih hm hm' fun c => ?_
      by_cases hc : a = c
      · subst hc
        rw [Memory.find_eq_none_of_lt ha, Memory.find_eq_none_of_lt hb]
      · have := hf c
        simpa [Memory.find, hc] using this

/-! Words. -/

/-- The bytes a word write changes, and what they then hold. -/
theorem read_writeWord (m : Memory) (addr v : Word) (a : Nat) :
    Memory.read Config.initMain (writeWord m addr v) a =
      if 4 * addr.toNat ≤ a ∧ a < 4 * addr.toNat + 4 then wordByte v (a - 4 * addr.toNat)
      else Memory.read Config.initMain m a := by
  simp only [writeWord, Memory.read_put]
  split
  · next h => subst h; simp
  · split
    · next h => subst h; simp
    · split
      · next h => subst h; simp
      · split
        · next h => subst h; simp
        · rw [if_neg (by omega)]

@[simp] theorem wordOfBytes_wordByte (w : Word) :
    wordOfBytes (wordByte w 0) (wordByte w 1) (wordByte w 2) (wordByte w 3) = w := by
  apply BitVec.eq_of_getLsbD_eq
  intro i hi
  simp only [wordOfBytes, wordByte, BitVec.getLsbD_append, BitVec.getLsbD_extractLsb']
  split
  · simp [*]
  · split
    · have : i - 8 < 8 := by omega
      simp [*, show 8 + (i - 8) = i by omega]
    · split
      · have : i - 8 - 8 < 8 := by omega
        simp [*, show 16 + (i - 8 - 8) = i by omega]
      · have : i - 8 - 8 - 8 < 8 := by omega
        simp [*, show 24 + (i - 8 - 8 - 8) = i by omega]

theorem readWord_writeWord_same (m : Memory) (a v : Word) : readWord (writeWord m a v) a = v := by
  simp only [readWord, read_writeWord]
  simp

theorem readWord_writeWord_other (m : Memory) {a b : Word} (v : Word) (h : a ≠ b) :
    readWord (writeWord m a v) b = readWord m b := by
  have h : a.toNat ≠ b.toNat := fun e => h (BitVec.eq_of_toNat_eq e)
  simp only [readWord, read_writeWord]
  rw [if_neg (by omega), if_neg (by omega), if_neg (by omega), if_neg (by omega)]

/-- Read after write, for words. -/
theorem readWord_writeWord (m : Memory) (a b v : Word) :
    readWord (writeWord m a v) b = if a = b then v else readWord m b := by
  split
  · next h => subst h; exact readWord_writeWord_same m a v
  · next h => exact readWord_writeWord_other m v h

/-- A word write keeps the canonical form of main memory. -/
theorem wf_writeWord {m : Memory} (a v : Word) (h : Memory.wf mainSize m = true) :
    Memory.wf mainSize (writeWord m a v) = true := by
  have := a.isLt
  have hs : mainSize = 17179869184 := rfl
  simp only [writeWord]
  exact Memory.wf_put _ (Memory.wf_put _ (Memory.wf_put _ (Memory.wf_put _ h (by omega)) (by omega)) (by omega)) (by omega)

namespace State

variable (s : State)

/-! What `memWrite` leaves alone. -/

@[simp] theorem memWrite_main (a v : Word) : (s.memWrite a v).main = writeWord s.main a v := rfl
@[simp] theorem memWrite_gpr (a v : Word) : (s.memWrite a v).gpr = s.gpr := rfl
@[simp] theorem memWrite_intlr (a v : Word) : (s.memWrite a v).intlr = s.intlr := rfl
@[simp] theorem memWrite_ihdlr (a v : Word) : (s.memWrite a v).ihdlr = s.ihdlr := rfl
@[simp] theorem memWrite_pc (a v : Word) : (s.memWrite a v).pc = s.pc := rfl
@[simp] theorem memWrite_sts (a v : Word) : (s.memWrite a v).sts = s.sts := rfl
@[simp] theorem memWrite_sp (a v : Word) : (s.memWrite a v).sp = s.sp := rfl
@[simp] theorem memWrite_lr (a v : Word) : (s.memWrite a v).lr = s.lr := rfl
@[simp] theorem memWrite_halted (a v : Word) : (s.memWrite a v).halted = s.halted := rfl
@[simp] theorem memWrite_blSrc (a v : Word) : (s.memWrite a v).blSrc = s.blSrc := rfl
@[simp] theorem memWrite_blDst (a v : Word) : (s.memWrite a v).blDst = s.blDst := rfl
@[simp] theorem memWrite_blW (a v : Word) : (s.memWrite a v).blW = s.blW := rfl
@[simp] theorem memWrite_blH (a v : Word) : (s.memWrite a v).blH = s.blH := rfl
@[simp] theorem memWrite_sprite (a v : Word) : (s.memWrite a v).sprite = s.sprite := rfl
@[simp] theorem memWrite_frame (a v : Word) : (s.memWrite a v).frame = s.frame := rfl
@[simp] theorem memWrite_freeDraws (a v : Word) : (s.memWrite a v).freeDraws = s.freeDraws := rfl
@[simp] theorem memWrite_keyTape (a v : Word) : (s.memWrite a v).keyTape = s.keyTape := rfl

theorem memRead_memWrite (a b v : Word) : (s.memWrite a v).memRead b = if a = b then v else s.memRead b :=
  readWord_writeWord s.main a b v

@[simp] theorem memRead_memWrite_same (a v : Word) : (s.memWrite a v).memRead a = v :=
  readWord_writeWord_same s.main a v

theorem mainByte_memWrite (addr v : Word) (a : Nat) :
    (s.memWrite addr v).mainByte a =
      if 4 * addr.toNat ≤ a ∧ a < 4 * addr.toNat + 4 then wordByte v (a - 4 * addr.toNat) else s.mainByte a :=
  read_writeWord s.main addr v a

/-- Two states with the same main memory read the same words. -/
theorem memRead_congr {s t : State} (h : t.main = s.main) (a : Word) : t.memRead a = s.memRead a := by
  simp only [memRead, h]

end State

end Sys2Proof.Machine
end

