-- ==== Sys2Proof/Laws/Ops.lean ====
section
/-!
SUPPORT. Registers, the end of an instruction, and interrupt entry: what each shared operation reads and writes, once.
-/

namespace Sys2Proof.Machine

variable (s : State)

/-! Registers. -/

/-- A register reads what was last written to it, R29 its low six bits; the others read as before. -/
theorem readReg_writeReg (r r' : Reg) (v : Word) :
    readReg (writeReg s r v) r' =
      if r' = r then (if r = .sts then (v.setWidth 6).setWidth 32 else v) else readReg s r' := by
  cases r <;> cases r' <;> simp [readReg, writeReg, Vector.getElem_set, Fin.ext_iff, eq_comm]

theorem readReg_writeReg_same {r : Reg} (v : Word) (h : r ≠ .sts) : readReg (writeReg s r v) r = v := by
  simp [readReg_writeReg, h]

theorem readReg_writeReg_other {r r' : Reg} (v : Word) (h : r' ≠ r) : readReg (writeReg s r v) r' = readReg s r' := by
  simp [readReg_writeReg, h]

/-- Two states with the same registers read the same. -/
theorem readReg_congr {s t : State} (hg : t.gpr = s.gpr) (hi : t.intlr = s.intlr) (hh : t.ihdlr = s.ihdlr)
    (hp : t.pc = s.pc) (ht : t.sts = s.sts) (hs : t.sp = s.sp) (hl : t.lr = s.lr) (r : Reg) :
    readReg t r = readReg s r := by
  cases r <;> simp [readReg, *]

theorem readReg_withPc {r : Reg} (v : Word) (h : r ≠ .pc) : readReg (s.withPc v) r = readReg s r := by
  cases r <;> simp_all [readReg]

theorem readReg_advance {r : Reg} (h : r ≠ .pc) : readReg s.advance r = readReg s r := readReg_withPc s _ h

theorem readReg_withSts {r : Reg} (v : BitVec 6) (h : r ≠ .sts) : readReg (s.withSts v) r = readReg s r := by
  cases r <;> simp_all [readReg]

theorem readReg_withSp {r : Reg} (v : Word) (h : r ≠ .sp) : readReg (s.withSp v) r = readReg s r := by
  cases r <;> simp_all [readReg]

theorem readReg_withLr {r : Reg} (v : Word) (h : r ≠ .lr) : readReg (s.withLr v) r = readReg s r := by
  cases r <;> simp_all [readReg]

@[simp] theorem readReg_withHalted (b : Bool) (r : Reg) : readReg (s.withHalted b) r = readReg s r := by
  cases r <;> rfl

@[simp] theorem readReg_withMain (m : Memory) (r : Reg) : readReg (s.withMain m) r = readReg s r := by cases r <;> rfl

@[simp] theorem readReg_withSprite (m : Memory) (r : Reg) : readReg (s.withSprite m) r = readReg s r := by
  cases r <;> rfl

@[simp] theorem readReg_withFrame (m : Memory) (r : Reg) : readReg (s.withFrame m) r = readReg s r := by
  cases r <;> rfl

@[simp] theorem readReg_withBlitMem (p : BitVec 12) (q : BitVec 16) (r : Reg) :
    readReg (s.withBlitMem p q) r = readReg s r := by cases r <;> rfl

@[simp] theorem readReg_withBlitDims (w h : BitVec 7) (r : Reg) :
    readReg (s.withBlitDims w h) r = readReg s r := by cases r <;> rfl

@[simp] theorem readReg_withFreeDraws (n : Nat) (r : Reg) : readReg (s.withFreeDraws n) r = readReg s r := by
  cases r <;> rfl

@[simp] theorem readReg_withKeyTape (t : List (Option Key)) (r : Reg) :
    readReg (s.withKeyTape t) r = readReg s r := by cases r <;> rfl

@[simp] theorem readReg_memWrite (a v : Word) (r : Reg) : readReg (s.memWrite a v) r = readReg s r := by
  cases r <;> rfl

/-! What `writeReg` leaves alone. -/

@[simp] theorem writeReg_halted (r : Reg) (v : Word) : (writeReg s r v).halted = s.halted := by cases r <;> rfl
@[simp] theorem writeReg_blSrc (r : Reg) (v : Word) : (writeReg s r v).blSrc = s.blSrc := by cases r <;> rfl
@[simp] theorem writeReg_blDst (r : Reg) (v : Word) : (writeReg s r v).blDst = s.blDst := by cases r <;> rfl
@[simp] theorem writeReg_blW (r : Reg) (v : Word) : (writeReg s r v).blW = s.blW := by cases r <;> rfl
@[simp] theorem writeReg_blH (r : Reg) (v : Word) : (writeReg s r v).blH = s.blH := by cases r <;> rfl
@[simp] theorem writeReg_main (r : Reg) (v : Word) : (writeReg s r v).main = s.main := by cases r <;> rfl
@[simp] theorem writeReg_sprite (r : Reg) (v : Word) : (writeReg s r v).sprite = s.sprite := by cases r <;> rfl
@[simp] theorem writeReg_frame (r : Reg) (v : Word) : (writeReg s r v).frame = s.frame := by cases r <;> rfl
@[simp] theorem writeReg_freeDraws (r : Reg) (v : Word) : (writeReg s r v).freeDraws = s.freeDraws := by cases r <;> rfl
@[simp] theorem writeReg_keyTape (r : Reg) (v : Word) : (writeReg s r v).keyTape = s.keyTape := by cases r <;> rfl

theorem writeReg_pc {r : Reg} (v : Word) (h : r ≠ .pc) : (writeReg s r v).pc = s.pc := by
  cases r <;> simp_all [writeReg]

theorem writeReg_sts {r : Reg} (v : Word) (h : r ≠ .sts) : (writeReg s r v).sts = s.sts := by
  cases r <;> simp_all [writeReg]

namespace State

/-! The status register's fields. -/

@[simp] theorem setCC_cc (c : BitVec 5) : (s.setCC c).cc = c := by simp [setCC, cc]
@[simp] theorem setCC_iflag (c : BitVec 5) : (s.setCC c).iflag = s.iflag := by simp [setCC, iflag]
@[simp] theorem setIF_cc (b : Bool) : (s.setIF b).cc = s.cc := by simp [setIF, cc]
@[simp] theorem setIF_iflag (b : Bool) : (s.setIF b).iflag = b := by simp [setIF, iflag]
@[simp] theorem advance_cc : s.advance.cc = s.cc := rfl
@[simp] theorem advance_iflag : s.advance.iflag = s.iflag := rfl
@[simp] theorem advance_pc : s.advance.pc = s.pc + 1 := rfl
@[simp] theorem drawCC_cc : s.drawCC.cc = Config.freeCC s.freeDraws := by simp [drawCC, setCC, cc]
@[simp] theorem drawCC_iflag : s.drawCC.iflag = s.iflag := by simp [drawCC, setCC, iflag]
@[simp] theorem drawCC_freeDraws : s.drawCC.freeDraws = s.freeDraws + 1 := rfl

@[simp] theorem advance_gpr : s.advance.gpr = s.gpr := rfl
@[simp] theorem advance_intlr : s.advance.intlr = s.intlr := rfl
@[simp] theorem advance_ihdlr : s.advance.ihdlr = s.ihdlr := rfl
@[simp] theorem advance_sts : s.advance.sts = s.sts := rfl
@[simp] theorem advance_sp : s.advance.sp = s.sp := rfl
@[simp] theorem advance_lr : s.advance.lr = s.lr := rfl
@[simp] theorem advance_halted : s.advance.halted = s.halted := rfl
@[simp] theorem advance_blSrc : s.advance.blSrc = s.blSrc := rfl
@[simp] theorem advance_blDst : s.advance.blDst = s.blDst := rfl
@[simp] theorem advance_blW : s.advance.blW = s.blW := rfl
@[simp] theorem advance_blH : s.advance.blH = s.blH := rfl
@[simp] theorem advance_main : s.advance.main = s.main := rfl
@[simp] theorem advance_sprite : s.advance.sprite = s.sprite := rfl
@[simp] theorem advance_frame : s.advance.frame = s.frame := rfl
@[simp] theorem advance_freeDraws : s.advance.freeDraws = s.freeDraws := rfl
@[simp] theorem advance_keyTape : s.advance.keyTape = s.keyTape := rfl

@[simp] theorem drawCC_gpr : s.drawCC.gpr = s.gpr := rfl
@[simp] theorem drawCC_intlr : s.drawCC.intlr = s.intlr := rfl
@[simp] theorem drawCC_ihdlr : s.drawCC.ihdlr = s.ihdlr := rfl
@[simp] theorem drawCC_pc : s.drawCC.pc = s.pc := rfl
@[simp] theorem drawCC_sp : s.drawCC.sp = s.sp := rfl
@[simp] theorem drawCC_lr : s.drawCC.lr = s.lr := rfl
@[simp] theorem drawCC_halted : s.drawCC.halted = s.halted := rfl
@[simp] theorem drawCC_blSrc : s.drawCC.blSrc = s.blSrc := rfl
@[simp] theorem drawCC_blDst : s.drawCC.blDst = s.blDst := rfl
@[simp] theorem drawCC_blW : s.drawCC.blW = s.blW := rfl
@[simp] theorem drawCC_blH : s.drawCC.blH = s.blH := rfl
@[simp] theorem drawCC_main : s.drawCC.main = s.main := rfl
@[simp] theorem drawCC_sprite : s.drawCC.sprite = s.sprite := rfl
@[simp] theorem drawCC_frame : s.drawCC.frame = s.frame := rfl
@[simp] theorem drawCC_keyTape : s.drawCC.keyTape = s.keyTape := rfl

@[simp] theorem setCC_gpr (c : BitVec 5) : (s.setCC c).gpr = s.gpr := rfl
@[simp] theorem setCC_intlr (c : BitVec 5) : (s.setCC c).intlr = s.intlr := rfl
@[simp] theorem setCC_ihdlr (c : BitVec 5) : (s.setCC c).ihdlr = s.ihdlr := rfl
@[simp] theorem setCC_pc (c : BitVec 5) : (s.setCC c).pc = s.pc := rfl
@[simp] theorem setCC_sp (c : BitVec 5) : (s.setCC c).sp = s.sp := rfl
@[simp] theorem setCC_lr (c : BitVec 5) : (s.setCC c).lr = s.lr := rfl
@[simp] theorem setCC_halted (c : BitVec 5) : (s.setCC c).halted = s.halted := rfl
@[simp] theorem setCC_blSrc (c : BitVec 5) : (s.setCC c).blSrc = s.blSrc := rfl
@[simp] theorem setCC_blDst (c : BitVec 5) : (s.setCC c).blDst = s.blDst := rfl
@[simp] theorem setCC_blW (c : BitVec 5) : (s.setCC c).blW = s.blW := rfl
@[simp] theorem setCC_blH (c : BitVec 5) : (s.setCC c).blH = s.blH := rfl
@[simp] theorem setCC_main (c : BitVec 5) : (s.setCC c).main = s.main := rfl
@[simp] theorem setCC_sprite (c : BitVec 5) : (s.setCC c).sprite = s.sprite := rfl
@[simp] theorem setCC_frame (c : BitVec 5) : (s.setCC c).frame = s.frame := rfl
@[simp] theorem setCC_freeDraws (c : BitVec 5) : (s.setCC c).freeDraws = s.freeDraws := rfl
@[simp] theorem setCC_keyTape (c : BitVec 5) : (s.setCC c).keyTape = s.keyTape := rfl

@[simp] theorem setIF_gpr (b : Bool) : (s.setIF b).gpr = s.gpr := rfl
@[simp] theorem setIF_intlr (b : Bool) : (s.setIF b).intlr = s.intlr := rfl
@[simp] theorem setIF_ihdlr (b : Bool) : (s.setIF b).ihdlr = s.ihdlr := rfl
@[simp] theorem setIF_pc (b : Bool) : (s.setIF b).pc = s.pc := rfl
@[simp] theorem setIF_sp (b : Bool) : (s.setIF b).sp = s.sp := rfl
@[simp] theorem setIF_lr (b : Bool) : (s.setIF b).lr = s.lr := rfl
@[simp] theorem setIF_halted (b : Bool) : (s.setIF b).halted = s.halted := rfl
@[simp] theorem setIF_blSrc (b : Bool) : (s.setIF b).blSrc = s.blSrc := rfl
@[simp] theorem setIF_blDst (b : Bool) : (s.setIF b).blDst = s.blDst := rfl
@[simp] theorem setIF_blW (b : Bool) : (s.setIF b).blW = s.blW := rfl
@[simp] theorem setIF_blH (b : Bool) : (s.setIF b).blH = s.blH := rfl
@[simp] theorem setIF_main (b : Bool) : (s.setIF b).main = s.main := rfl
@[simp] theorem setIF_sprite (b : Bool) : (s.setIF b).sprite = s.sprite := rfl
@[simp] theorem setIF_frame (b : Bool) : (s.setIF b).frame = s.frame := rfl
@[simp] theorem setIF_freeDraws (b : Bool) : (s.setIF b).freeDraws = s.freeDraws := rfl
@[simp] theorem setIF_keyTape (b : Bool) : (s.setIF b).keyTape = s.keyTape := rfl

end State

theorem readReg_setCC {r : Reg} (c : BitVec 5) (h : r ≠ .sts) : readReg (s.setCC c) r = readReg s r :=
  readReg_withSts s _ h

theorem readReg_setIF {r : Reg} (b : Bool) (h : r ≠ .sts) : readReg (s.setIF b) r = readReg s r :=
  readReg_withSts s _ h

theorem readReg_drawCC {r : Reg} (h : r ≠ .sts) : readReg s.drawCC r = readReg s r := by
  simp only [State.drawCC, readReg_withFreeDraws]
  exact readReg_setCC s _ h

/-- R29 reads as its two fields. -/
theorem readReg_sts_eq {s t : State} : readReg t .sts = readReg s .sts ↔ t.iflag = s.iflag ∧ t.cc = s.cc := by
  have h : readReg t .sts = readReg s .sts ↔ t.sts = s.sts := by
    constructor
    · intro h
      have := congrArg (BitVec.setWidth 6) h
      simpa [readReg] using this
    · intro h; simp [readReg, h]
  rw [h, ← mkSts_fields t.sts, ← mkSts_fields s.sts, mkSts_inj]
  rfl

/-! The end of an instruction. -/

/-- With a destination other than R28 an instruction ends in a next state (10_state R28). -/
theorem writeBack_eq {ra : Reg} (v : Word) (after : State → State) (h : ra ≠ .pc) :
    writeBack s ra v after = .next (after (writeReg s ra v)).advance := by
  cases ra <;> first | rfl | exact absurd rfl h

/-- R28 as the destination of a non-jump is refused (10_state R28). -/
@[simp] theorem writeBack_pc (v : Word) (after : State → State) :
    writeBack s .pc v after = .refused .pcAsDestination := rfl

/-- All that `writeBack` can do. -/
theorem writeBack_next {s t : State} {ra : Reg} {v : Word} {after : State → State}
    (h : writeBack s ra v after = .next t) : ra ≠ .pc ∧ t = (after (writeReg s ra v)).advance := by
  by_cases hr : ra = .pc
  · subst hr; simp at h
  · rw [writeBack_eq s v after hr] at h
    exact ⟨hr, (Host.Outcome.next.inj h).symm⟩

@[simp] theorem writeBackOr_ok (ra : Reg) (v : Word) (after : State → State) :
    writeBackOr s ra (.ok v) after = writeBack s ra v after := rfl

@[simp] theorem writeBackOr_error (ra : Reg) (r : Refusal) (after : State → State) :
    writeBackOr s ra (.error r) after = .refused r := rfl

/-- All that `writeBackOr` can do. -/
theorem writeBackOr_next {s t : State} {ra : Reg} {e : Except Refusal Word} {after : State → State}
    (h : writeBackOr s ra e after = .next t) :
    ∃ v, e = .ok v ∧ ra ≠ .pc ∧ t = (after (writeReg s ra v)).advance := by
  cases e with
  | ok v => exact ⟨v, rfl, writeBack_next h⟩
  | error r => simp at h

/-! Interrupt entry and return. -/

theorem enterInterrupt_eq (k : Key) :
    enterInterrupt k s =
      ((((s.setIF true).memWrite codeAddress (k.code.setWidth 32)).withIntlr s.pc).withPc s.ihdlr) := rfl

@[simp] theorem enterInterrupt_pc (k : Key) : (enterInterrupt k s).pc = s.ihdlr := rfl
@[simp] theorem enterInterrupt_intlr (k : Key) : (enterInterrupt k s).intlr = s.pc := rfl
@[simp] theorem enterInterrupt_iflag (k : Key) : (enterInterrupt k s).iflag = true := s.setIF_iflag true
@[simp] theorem enterInterrupt_cc (k : Key) : (enterInterrupt k s).cc = s.cc := s.setIF_cc true
@[simp] theorem enterInterrupt_main (k : Key) :
    (enterInterrupt k s).main = writeWord s.main codeAddress (k.code.setWidth 32) := rfl
@[simp] theorem enterInterrupt_gpr (k : Key) : (enterInterrupt k s).gpr = s.gpr := rfl
@[simp] theorem enterInterrupt_ihdlr (k : Key) : (enterInterrupt k s).ihdlr = s.ihdlr := rfl
@[simp] theorem enterInterrupt_sp (k : Key) : (enterInterrupt k s).sp = s.sp := rfl
@[simp] theorem enterInterrupt_lr (k : Key) : (enterInterrupt k s).lr = s.lr := rfl
@[simp] theorem enterInterrupt_halted (k : Key) : (enterInterrupt k s).halted = s.halted := rfl
@[simp] theorem enterInterrupt_blSrc (k : Key) : (enterInterrupt k s).blSrc = s.blSrc := rfl
@[simp] theorem enterInterrupt_blDst (k : Key) : (enterInterrupt k s).blDst = s.blDst := rfl
@[simp] theorem enterInterrupt_blW (k : Key) : (enterInterrupt k s).blW = s.blW := rfl
@[simp] theorem enterInterrupt_blH (k : Key) : (enterInterrupt k s).blH = s.blH := rfl
@[simp] theorem enterInterrupt_sprite (k : Key) : (enterInterrupt k s).sprite = s.sprite := rfl
@[simp] theorem enterInterrupt_frame (k : Key) : (enterInterrupt k s).frame = s.frame := rfl
@[simp] theorem enterInterrupt_freeDraws (k : Key) : (enterInterrupt k s).freeDraws = s.freeDraws := rfl
@[simp] theorem enterInterrupt_keyTape (k : Key) : (enterInterrupt k s).keyTape = s.keyTape := rfl

/-- A taken key event is interrupt entry (60_exceptions R254). -/
theorem keyEvent_taken {s : State} (k : Key) (h : s.takesKey = true) : keyEvent k s = enterInterrupt k s := if_pos h

/-- A blocked key event has no effect (60_exceptions R254). -/
theorem keyEvent_dropped {s : State} (k : Key) (h : s.takesKey = false) : keyEvent k s = s := by
  simp [keyEvent, h]

theorem takesKey_iff : s.takesKey = true ↔ s.halted = false ∧ s.iflag = false ∧ s.ihdlr ≠ noHandler := by
  simp [State.takesKey, and_assoc]

end Sys2Proof.Machine
end

