-- ==== Sys2Proof/Laws/Graphics.lean ====
section
/-!
SUPPORT. What the graphics transfers can do, said once: the bytes they write, the canonical form they keep, and where they
are refused.
-/

namespace Sys2Proof.Machine

variable {s : State}

@[simp] theorem graphicsAddress_in {size a : Nat} (h : a < size) : graphicsAddress size a = .ok (some a) := by
  simp [graphicsAddress, h]

@[simp] theorem graphicsAddress_out {size a : Nat} (h : ¬ a < size) :
    graphicsAddress size a = .error .graphicsAddressOverflow := by
  simp [graphicsAddress, h, blitOverflow]

/-- An address is answered within the size and refused past it. -/
theorem graphicsAddress_cases (size a : Nat) :
    (a < size ∧ graphicsAddress size a = .ok (some a)) ∨
    (¬ a < size ∧ graphicsAddress size a = .error .graphicsAddressOverflow) := by
  by_cases h : a < size
  · exact .inl ⟨h, graphicsAddress_in h⟩
  · exact .inr ⟨h, graphicsAddress_out h⟩

/-! Load Sprite. -/

/-- One more byte of a sprite. -/
theorem spriteLoad_succ (dest : Nat) (src : Word) (n : Nat) :
    (∃ m, spriteLoad s dest src n = .ok m ∧ dest + n < spriteSize ∧
      spriteLoad s dest src (n + 1) = .ok (m.put (dest + n) (sourceByte s src n))) ∨
    (spriteLoad s dest src (n + 1) = .error .graphicsAddressOverflow ∧ ¬ dest + n < spriteSize) ∨
    (∃ r, spriteLoad s dest src n = .error r ∧ spriteLoad s dest src (n + 1) = .error r) := by
  rw [spriteLoad]
  cases hm : spriteLoad s dest src n with
  | error r => exact .inr (.inr ⟨r, rfl, rfl⟩)
  | ok m =>
    rcases graphicsAddress_cases spriteSize (dest + n) with ⟨h, e⟩ | ⟨h, e⟩ <;> simp only [e]
    · exact .inl ⟨m, rfl, h, rfl⟩
    · exact .inr (.inl ⟨trivial, h⟩)

/-- Where `SpriteLoad` answers, its end lies within the library, each byte of the sprite is in its place, the others are
as before, and the canonical form is kept (43_graphics R223). -/
theorem spriteLoad_ok {dest : Nat} {src : Word} {n : Nat} {m : Memory} (h : spriteLoad s dest src n = .ok m) :
    (n = 0 ∨ dest + n ≤ spriteSize) ∧
    (∀ a, Memory.read Config.initSprite m a =
      if dest ≤ a ∧ a < dest + n then sourceByte s src (a - dest) else s.spriteByte a) ∧
    (Memory.wf spriteSize s.sprite = true → Memory.wf spriteSize m = true) := by
  induction n generalizing m with
  | zero =>
    cases h
    exact ⟨.inl rfl, fun a => by rw [if_neg (by omega)]; rfl, id⟩
  | succ n ih =>
    rcases spriteLoad_succ (s := s) dest src n with ⟨m', h', hlt, e⟩ | ⟨e, _⟩ | ⟨r, _, e⟩ <;> rw [e] at h
    · cases h
      obtain ⟨_, hr, hw⟩ := ih h'
      refine ⟨.inr (by omega), fun a => ?_, fun hs => Memory.wf_put _ (hw hs) hlt⟩
      rw [Memory.read_put, hr]
      by_cases ha : dest + n = a
      · subst ha
        rw [if_pos rfl, if_pos (by omega)]
        congr 1
        omega
      · rw [if_neg ha]
        by_cases hb : dest ≤ a ∧ a < dest + n
        · rw [if_pos hb, if_pos (by omega)]
        · rw [if_neg hb, if_neg (by omega)]
    · cases h
    · cases h

/-- `SpriteLoad` is refused for no other reason than an address past the end. -/
theorem spriteLoad_error {dest : Nat} {src : Word} {n : Nat} {r : Refusal} (h : spriteLoad s dest src n = .error r) :
    r = .graphicsAddressOverflow := by
  induction n with
  | zero => cases h
  | succ n ih =>
    rcases spriteLoad_succ (s := s) dest src n with ⟨_, _, _, e⟩ | ⟨e, _⟩ | ⟨r', h', e⟩ <;> rw [e] at h <;> cases h
    · rfl
    · exact ih h'

/-- All that `GLOD` can do when it answers a next state. -/
theorem glod_next {t : State} {dest : BitVec 12} {src : Word} {len : BitVec 12} (h : glod s dest src len = .next t) :
    ∃ m, spriteLoad s dest.toNat src len.toNat = .ok m ∧ t = (s.withSprite m).advance := by
  unfold glod at h
  split at h
  · next m e => exact ⟨m, e, (Host.Outcome.next.inj h).symm⟩
  · cases h

/-! Bit block transfer. -/

/-- What one pixel does: within both memories it writes one byte; else it is refused. -/
theorem blitPixel_cases (bop : BitVec 4) (mask : Byte) (row col : Nat) (m : Memory) :
    (blitSource s row col < spriteSize ∧ blitDest s row col < frameSize ∧
      blitPixel s bop mask row col m = .ok (m.put (blitDest s row col)
        (blitOp bop (s.spriteByte (blitSource s row col)) (Memory.read Config.initFrame m (blitDest s row col)) &&& mask))) ∨
    (¬ (blitSource s row col < spriteSize ∧ blitDest s row col < frameSize) ∧
      blitPixel s bop mask row col m = .error .graphicsAddressOverflow) := by
  unfold blitPixel
  rcases graphicsAddress_cases spriteSize (blitSource s row col) with ⟨h, e⟩ | ⟨h, e⟩ <;>
    rcases graphicsAddress_cases frameSize (blitDest s row col) with ⟨h', e'⟩ | ⟨h', e'⟩ <;>
    simp only [e, e']
  · exact .inl ⟨h, h', trivial⟩
  · exact .inr ⟨fun x => h' x.2, trivial⟩
  · exact .inr ⟨fun x => h x.1, trivial⟩
  · exact .inr ⟨fun x => h x.1, trivial⟩

/-- Where the first `n` pixels of a row are answered, all of them lie within both memories, each is the operation of its
sprite byte and the byte the row found there, and every other byte is as the row found it (43_graphics R231). -/
theorem blitRow_ok {bop : BitVec 4} {mask : Byte} {row n : Nat} {m m' : Memory}
    (h : blitRow s bop mask row n m = .ok m') :
    (∀ col, col < n → blitSource s row col < spriteSize ∧ blitDest s row col < frameSize) ∧
    (∀ col, col < n → Memory.read Config.initFrame m' (blitDest s row col) =
      blitOp bop (s.spriteByte (blitSource s row col)) (Memory.read Config.initFrame m (blitDest s row col)) &&& mask) ∧
    (∀ a, (∀ col, col < n → a ≠ blitDest s row col) →
      Memory.read Config.initFrame m' a = Memory.read Config.initFrame m a) ∧
    (Memory.wf frameSize m = true → Memory.wf frameSize m' = true) := by
  induction n generalizing m' with
  | zero => cases h; exact ⟨by omega, by omega, fun _ _ => rfl, id⟩
  | succ n ih =>
    rw [blitRow] at h
    cases e : blitRow s bop mask row n m with
    | error r => simp only [e] at h; cases h
    | ok m₁ =>
      simp only [e] at h
      obtain ⟨h1, h2, h3, h4⟩ := ih e
      rcases blitPixel_cases (s := s) bop mask row n m₁ with ⟨hs, hd, ep⟩ | ⟨_, ep⟩ <;> rw [ep] at h <;> cases h
      have hne : ∀ col, col < n → blitDest s row col ≠ blitDest s row n := by
        intro col hc; simp only [blitDest]; omega
      have hold : Memory.read Config.initFrame m₁ (blitDest s row n) = Memory.read Config.initFrame m (blitDest s row n) :=
        h3 _ fun col hc => (hne col hc).symm
      refine ⟨fun col hc => ?_, fun col hc => ?_, fun a ha => ?_, fun hw => Memory.wf_put _ (h4 hw) hd⟩
      · rcases Nat.lt_succ_iff_lt_or_eq.1 hc with hc | rfl
        · exact h1 col hc
        · exact ⟨hs, hd⟩
      · rcases Nat.lt_succ_iff_lt_or_eq.1 hc with hc | rfl
        · rw [Memory.read_put_other _ _ _ (hne col hc).symm]; exact h2 col hc
        · rw [Memory.read_put_same, hold]
      · rw [Memory.read_put_other _ _ _ (ha n (Nat.lt_succ_self n)).symm]
        exact h3 a fun col hc => ha col (Nat.lt_succ_of_lt hc)

/-- The same for the first `n` rows: the rows of the rectangle do not meet, since a row has fewer than 256 pixels
(43_graphics R231). -/
theorem blitRows_ok {bop : BitVec 4} {mask : Byte} {n : Nat} {m m' : Memory}
    (h : blitRows s bop mask n m = .ok m') :
    (∀ row col, row < n → col < s.blW.toNat → blitSource s row col < spriteSize ∧ blitDest s row col < frameSize) ∧
    (∀ row col, row < n → col < s.blW.toNat → Memory.read Config.initFrame m' (blitDest s row col) =
      blitOp bop (s.spriteByte (blitSource s row col)) (Memory.read Config.initFrame m (blitDest s row col)) &&& mask) ∧
    (∀ a, (∀ row col, row < n → col < s.blW.toNat → a ≠ blitDest s row col) →
      Memory.read Config.initFrame m' a = Memory.read Config.initFrame m a) ∧
    (Memory.wf frameSize m = true → Memory.wf frameSize m' = true) := by
  have hw7 := s.blW.isLt
  induction n generalizing m' with
  | zero => cases h; exact ⟨by omega, by omega, fun _ _ => rfl, id⟩
  | succ n ih =>
    rw [blitRows] at h
    cases e : blitRows s bop mask n m with
    | error r => simp only [e] at h; cases h
    | ok m₁ =>
      simp only [e] at h
      obtain ⟨h1, h2, h3, h4⟩ := ih e
      obtain ⟨r1, r2, r3, r4⟩ := blitRow_ok h
      have hne : ∀ row col col', row < n → col < s.blW.toNat → col' < s.blW.toNat →
          blitDest s row col ≠ blitDest s n col' := by
        intro row col col' hr hc hc'; simp only [blitDest]; omega
      refine ⟨fun row col hr hc => ?_, fun row col hr hc => ?_, fun a ha => ?_, fun hw => r4 (h4 hw)⟩
      · rcases Nat.lt_succ_iff_lt_or_eq.1 hr with hr | rfl
        · exact h1 row col hr hc
        · exact r1 col hc
      · rcases Nat.lt_succ_iff_lt_or_eq.1 hr with hr | rfl
        · rw [r3 _ fun col' hc' => hne row col col' hr hc hc']; exact h2 row col hr hc
        · rw [r2 col hc, h3 _ fun row' col' hr' hc' => (hne row' col' col hr' hc' hc).symm]
      · rw [r3 a fun col hc => ha n col (Nat.lt_succ_self n) hc]
        exact h3 a fun row col hr hc => ha row col (Nat.lt_succ_of_lt hr) hc

/-- A row is refused for no other reason than an address past the end. -/
theorem blitRow_error {bop : BitVec 4} {mask : Byte} {row n : Nat} {m : Memory} {r : Refusal}
    (h : blitRow s bop mask row n m = .error r) : r = .graphicsAddressOverflow := by
  induction n with
  | zero => cases h
  | succ n ih =>
    rw [blitRow] at h
    cases e : blitRow s bop mask row n m with
    | error r' => simp only [e] at h; cases h; exact ih e
    | ok m₁ =>
      simp only [e] at h
      rcases blitPixel_cases (s := s) bop mask row n m₁ with ⟨_, _, ep⟩ | ⟨_, ep⟩ <;> rw [ep] at h <;> cases h
      rfl

/-- A transfer is refused for no other reason than an address past the end. -/
theorem blitRows_error {bop : BitVec 4} {mask : Byte} {n : Nat} {m : Memory} {r : Refusal}
    (h : blitRows s bop mask n m = .error r) : r = .graphicsAddressOverflow := by
  induction n with
  | zero => cases h
  | succ n ih =>
    rw [blitRows] at h
    cases e : blitRows s bop mask n m with
    | error r' => simp only [e] at h; cases h; exact ih e
    | ok m₁ => simp only [e] at h; exact blitRow_error h

/-- All that `BLIT` can do when it answers a next state. -/
theorem blit_next {t : State} {bop : BitVec 4} {mask : Byte} (h : blit s bop mask = .next t) :
    ∃ m, blitRows s bop mask s.blH.toNat s.frame = .ok m ∧ t = (s.withFrame m).advance := by
  unfold blit at h
  split at h
  · next m e => exact ⟨m, e, (Host.Outcome.next.inj h).symm⟩
  · cases h

/-! Colours. -/

/-- A two-bit field gives back its bits. -/
theorem two_bits {a b c d : Bool} (h : BitVec.ofBool a ++ BitVec.ofBool b = BitVec.ofBool c ++ BitVec.ofBool d) :
    a = c ∧ b = d := by revert a b c d; decide

/-- A three-bit field gives back its bits. -/
theorem three_bits {a b c d e f : Bool}
    (h : BitVec.ofBool a ++ BitVec.ofBool b ++ BitVec.ofBool c = BitVec.ofBool d ++ BitVec.ofBool e ++ BitVec.ofBool f) :
    a = d ∧ b = e ∧ c = f := by revert a b c d e f; decide

/-- A colour gives back each of the eight colour bits it was read from (10_state R40). -/
theorem colourBit_eq_of_colourOf_eq {layout : Equiv.Perm (Fin 8)} {p q : Byte}
    (h : colourOf layout p = colourOf layout q) (k : Fin 8) : colourBit layout p k = colourBit layout q k := by
  simp only [colourOf, Config.Colour.mk.injEq] at h
  obtain ⟨r2, r1, r0⟩ := three_bits h.1
  obtain ⟨g2, g1, g0⟩ := three_bits h.2.1
  obtain ⟨b1, b0⟩ := two_bits h.2.2
  fin_cases k <;> assumption

/-- Under any layout two pixels of one colour are one byte: no bit of a pixel is lost (10_state R40, log 30). -/
theorem colourOf_injective (layout : Equiv.Perm (Fin 8)) : Function.Injective (colourOf layout) := by
  intro p q h
  refine BitVec.eq_of_getLsbD_eq fun j hj => ?_
  simpa [colourBit] using colourBit_eq_of_colourOf_eq h (layout.symm ⟨j, hj⟩)

end Sys2Proof.Machine
end

