-- ==== Sys2Proof/Laws/Exec.lean ====
section
/-!
SUPPORT. What an instruction and a step can do, said once: the shapes of every next state.
-/

namespace Sys2Proof.Machine

/-- All that a jump can do when it answers a next state. -/
theorem jump_next {c : Cond} {s t : State} {taken : State → State} (h : jump c s taken = .next t) :
    (condMatch c s.cc = some true ∧ t = taken s) ∨ (condMatch c s.cc = some false ∧ t = s.advance) := by
  unfold jump at h
  split at h
  · next e => exact .inl ⟨e, (Host.Outcome.next.inj h).symm⟩
  · next e => exact .inr ⟨e, (Host.Outcome.next.inj h).symm⟩
  · cases h

/-- All that an arithmetic instruction can do when it answers a next state (40_alu R130, R132). -/
theorem arith_next {s t : State} {ra : Reg} {e : Except Refusal Word} (h : arith s ra e = .next t) :
    ∃ v, e = .ok v ∧ ra ≠ .pc ∧ t = (writeReg s ra v).drawCC.advance := writeBackOr_next h

/-- The shapes of a next state, one for each way an instruction ends. -/
inductive Ends (i : Instr) (s : State) : State → Prop where
  /-- a result written, nothing else -/
  | result (ra : Reg) (v : Word) (hd : i.dest = some ra) (hp : ra ≠ .pc) (ha : i.isArith = false)
      (hs : i.usesStack = false) : Ends i s (writeReg s ra v).advance
  /-- ALU operations 0..15 -/
  | arith (ra : Reg) (v : Word) (hd : i.dest = some ra) (hp : ra ≠ .pc) (ha : i.isArith = true) :
      Ends i s (writeReg s ra v).drawCC.advance
  /-- `POP` -/
  | pop (ra : Reg) (v : Word) (hi : i = .pop ra) (hp : ra ≠ .pc) :
      Ends i s ((writeReg s ra v).withSp ((writeReg s ra v).sp + 1)).advance
  /-- `STR` -/
  | store (a v : Word) (hi : i.stores = true) (hs : i.usesStack = false) : Ends i s (s.memWrite a v).advance
  /-- `PUSH` -/
  | push (ra : Reg) (p a v : Word) (hi : i = .push ra) : Ends i s ((s.withSp p).memWrite a v).advance
  /-- `CMP` -/
  | compare (ra rb : Reg) (c : Cond) (hi : i = .cmp ra rb) : Ends i s (s.setCC c.code).advance
  /-- `HALT` -/
  | halt (hi : i = .halt) : Ends i s (s.withHalted true)
  /-- a jump that goes nowhere but to a target or to the next instruction -/
  | goto (v : Word) (hd : i.dest = none) (hi : i ≠ .halt) (hc : ∀ ra rb, i ≠ .cmp ra rb)
      (ha : i.isArith = false) : Ends i s (s.withPc v)
  /-- a taken subroutine jump -/
  | link (v w : Word) (hi : i.links = true) : Ends i s ((s.withLr v).withPc w)
  /-- a taken return from interrupt -/
  | interruptReturn (c : Cond) (hi : i = .jmpi c) : Ends i s (returnFromInterrupt s)
  /-- `GLOD` -/
  | sprite (m : Memory) (hi : i.loadsSprite = true) (dest : Nat) (src : Word) (n : Nat)
      (hm : spriteLoad s dest src n = .ok m) : Ends i s (s.withSprite m).advance
  /-- `BLITMEM` -/
  | blitMem (ra rb : Reg) (p : BitVec 12) (q : BitVec 16) (hi : i = .blitmem ra rb) :
      Ends i s (s.withBlitMem p q).advance
  /-- `BLITDIMS` -/
  | blitDims (w h : BitVec 7) (hi : i.setsBlitDims = true) : Ends i s (s.withBlitDims w h).advance
  /-- `BLIT` -/
  | frame (m : Memory) (hi : i.blits = true) (bop : BitVec 4) (mask : Byte) (n : Nat)
      (hm : blitRows s bop mask n s.frame = .ok m) : Ends i s (s.withFrame m).advance

/-- Every instruction that answers a next state ends in one of the shapes. -/
theorem exec_ends {i : Instr} {s t : State} (h : exec i s = .next t) : Ends i s t := by
  cases i with
  | adduReg ra rb rc =>
    simp only [exec, execAdduReg] at h
    obtain ⟨v, _, hp, rfl⟩ := arith_next h
    exact .arith ra v rfl hp rfl
  | addsReg ra rb rc =>
    simp only [exec, execAddsReg] at h
    obtain ⟨v, _, hp, rfl⟩ := arith_next h
    exact .arith ra v rfl hp rfl
  | adduImm ra rb imm9 =>
    simp only [exec, execAdduImm] at h
    obtain ⟨v, _, hp, rfl⟩ := arith_next h
    exact .arith ra v rfl hp rfl
  | addsImm ra rb imm9 =>
    simp only [exec, execAddsImm] at h
    obtain ⟨v, _, hp, rfl⟩ := arith_next h
    exact .arith ra v rfl hp rfl
  | subuReg ra rb rc =>
    simp only [exec, execSubuReg] at h
    obtain ⟨v, _, hp, rfl⟩ := arith_next h
    exact .arith ra v rfl hp rfl
  | subsReg ra rb rc =>
    simp only [exec, execSubsReg] at h
    obtain ⟨v, _, hp, rfl⟩ := arith_next h
    exact .arith ra v rfl hp rfl
  | subuImm ra rb imm9 =>
    simp only [exec, execSubuImm] at h
    obtain ⟨v, _, hp, rfl⟩ := arith_next h
    exact .arith ra v rfl hp rfl
  | subsImm ra rb imm9 =>
    simp only [exec, execSubsImm] at h
    obtain ⟨v, _, hp, rfl⟩ := arith_next h
    exact .arith ra v rfl hp rfl
  | mltuReg ra rb rc =>
    simp only [exec, execMltuReg] at h
    obtain ⟨v, _, hp, rfl⟩ := arith_next h
    exact .arith ra v rfl hp rfl
  | mltsReg ra rb rc =>
    simp only [exec, execMltsReg] at h
    obtain ⟨v, _, hp, rfl⟩ := arith_next h
    exact .arith ra v rfl hp rfl
  | mltuImm ra rb imm9 =>
    simp only [exec, execMltuImm] at h
    obtain ⟨v, _, hp, rfl⟩ := arith_next h
    exact .arith ra v rfl hp rfl
  | mltsImm ra rb imm9 =>
    simp only [exec, execMltsImm] at h
    obtain ⟨v, _, hp, rfl⟩ := arith_next h
    exact .arith ra v rfl hp rfl
  | divuReg ra rb rc =>
    simp only [exec, execDivuReg] at h
    obtain ⟨v, _, hp, rfl⟩ := arith_next h
    exact .arith ra v rfl hp rfl
  | divsReg ra rb rc =>
    simp only [exec, execDivsReg] at h
    obtain ⟨v, _, hp, rfl⟩ := arith_next h
    exact .arith ra v rfl hp rfl
  | divuImm ra rb imm9 =>
    simp only [exec, execDivuImm] at h
    obtain ⟨v, _, hp, rfl⟩ := arith_next h
    exact .arith ra v rfl hp rfl
  | divsImm ra rb imm9 =>
    simp only [exec, execDivsImm] at h
    obtain ⟨v, _, hp, rfl⟩ := arith_next h
    exact .arith ra v rfl hp rfl
  | mv ra rb =>
    simp only [exec, execMv] at h
    obtain ⟨hp, rfl⟩ := writeBack_next h
    exact .result ra _ rfl hp rfl rfl
  | cmp ra rb => cases h; exact .compare ra rb _ rfl
  | aslReg ra rb =>
    simp only [exec, execAslReg] at h
    obtain ⟨v, _, hp, rfl⟩ := writeBackOr_next h
    exact .result ra v rfl hp rfl rfl
  | asrReg ra rb =>
    simp only [exec, execAsrReg] at h
    obtain ⟨v, _, hp, rfl⟩ := writeBackOr_next h
    exact .result ra v rfl hp rfl rfl
  | aslImm ra imm14 =>
    simp only [exec, execAslImm] at h
    obtain ⟨v, _, hp, rfl⟩ := writeBackOr_next h
    exact .result ra v rfl hp rfl rfl
  | asrImm ra imm14 =>
    simp only [exec, execAsrImm] at h
    obtain ⟨v, _, hp, rfl⟩ := writeBackOr_next h
    exact .result ra v rfl hp rfl rfl
  | lslReg ra rb =>
    simp only [exec, execLslReg] at h
    obtain ⟨v, _, hp, rfl⟩ := writeBackOr_next h
    exact .result ra v rfl hp rfl rfl
  | lslImm ra imm14 =>
    simp only [exec, execLslImm] at h
    obtain ⟨v, _, hp, rfl⟩ := writeBackOr_next h
    exact .result ra v rfl hp rfl rfl
  | lsrReg ra rb =>
    simp only [exec, execLsrReg] at h
    obtain ⟨v, _, hp, rfl⟩ := writeBackOr_next h
    exact .result ra v rfl hp rfl rfl
  | lsrImm ra imm14 =>
    simp only [exec, execLsrImm] at h
    obtain ⟨v, _, hp, rfl⟩ := writeBackOr_next h
    exact .result ra v rfl hp rfl rfl
  | andReg ra rb rc =>
    simp only [exec, execAndReg] at h
    obtain ⟨hp, rfl⟩ := writeBack_next h
    exact .result ra _ rfl hp rfl rfl
  | andImm ra rb imm9 =>
    simp only [exec, execAndImm] at h
    obtain ⟨hp, rfl⟩ := writeBack_next h
    exact .result ra _ rfl hp rfl rfl
  | orReg ra rb rc =>
    simp only [exec, execOrReg] at h
    obtain ⟨hp, rfl⟩ := writeBack_next h
    exact .result ra _ rfl hp rfl rfl
  | orImm ra rb imm9 =>
    simp only [exec, execOrImm] at h
    obtain ⟨hp, rfl⟩ := writeBack_next h
    exact .result ra _ rfl hp rfl rfl
  | xorReg ra rb rc =>
    simp only [exec, execXorReg] at h
    obtain ⟨hp, rfl⟩ := writeBack_next h
    exact .result ra _ rfl hp rfl rfl
  | xorImm ra rb imm9 =>
    simp only [exec, execXorImm] at h
    obtain ⟨hp, rfl⟩ := writeBack_next h
    exact .result ra _ rfl hp rfl rfl
  | notReg ra rb =>
    simp only [exec, execNotReg] at h
    obtain ⟨hp, rfl⟩ := writeBack_next h
    exact .result ra _ rfl hp rfl rfl
  | ldrReg ra rb =>
    simp only [exec, execLdrReg] at h
    obtain ⟨hp, rfl⟩ := writeBack_next h
    exact .result ra _ rfl hp rfl rfl
  | ldrImm ra imm17 =>
    simp only [exec, execLdrImm] at h
    obtain ⟨hp, rfl⟩ := writeBack_next h
    exact .result ra _ rfl hp rfl rfl
  | strReg ra rb => cases h; exact .store _ _ rfl rfl
  | strImm ra imm17 => cases h; exact .store _ _ rfl rfl
  | push ra => cases h; exact .push ra _ _ _ rfl
  | pop ra =>
    simp only [exec, execPop] at h
    obtain ⟨hp, rfl⟩ := writeBack_next h
    exact .pop ra _ rfl hp
  | halt => cases h; exact .halt rfl
  | jmpReg c ra =>
    simp only [exec, execJmpReg] at h
    rcases jump_next h with ⟨_, rfl⟩ | ⟨_, rfl⟩ <;>
      exact .goto _ rfl nofun nofun rfl
  | jmpImm c imm22 =>
    simp only [exec, execJmpImm] at h
    rcases jump_next h with ⟨_, rfl⟩ | ⟨_, rfl⟩ <;>
      exact .goto _ rfl nofun nofun rfl
  | jmpsReg c ra =>
    simp only [exec, execJmpsReg] at h
    rcases jump_next h with ⟨_, rfl⟩ | ⟨_, rfl⟩
    · exact .link _ _ rfl
    · exact .goto _ rfl nofun nofun rfl
  | jmpsImm c imm22 =>
    simp only [exec, execJmpsImm] at h
    rcases jump_next h with ⟨_, rfl⟩ | ⟨_, rfl⟩
    · exact .link _ _ rfl
    · exact .goto _ rfl nofun nofun rfl
  | jmpi c =>
    simp only [exec, execJmpi] at h
    rcases jump_next h with ⟨_, rfl⟩ | ⟨_, rfl⟩
    · split
      · exact .interruptReturn c rfl
      · exact .goto _ rfl nofun nofun rfl
    · exact .goto _ rfl nofun nofun rfl
  | glodReg ra rb rc =>
    simp only [exec, execGlodReg] at h
    obtain ⟨m, hm, rfl⟩ := glod_next h
    exact .sprite m rfl _ _ _ hm
  | glodImm dest12 src10 len12 =>
    simp only [exec, execGlodImm] at h
    obtain ⟨m, hm, rfl⟩ := glod_next h
    exact .sprite m rfl _ _ _ hm
  | blitmem ra rb => cases h; exact .blitMem ra rb _ _ rfl
  | blitdimsReg ra rb => cases h; exact .blitDims _ _ rfl
  | blitdimsImm w7 h7 => cases h; exact .blitDims _ _ rfl
  | blitReg ra rb =>
    simp only [exec, execBlitReg] at h
    obtain ⟨m, hm, rfl⟩ := blit_next h
    exact .frame m rfl _ _ _ hm
  | blitImm bop4 mask8 =>
    simp only [exec, execBlitImm] at h
    obtain ⟨m, hm, rfl⟩ := blit_next h
    exact .frame m rfl _ _ _ hm

/-- All that a step can do when it answers a next state: a halted machine stays as it is, a key event is examined, or the
instruction at `pc` is executed. -/
theorem step_next {s t : State} (h : step s = .next t) :
    (s.halted = true ∧ t = s) ∨
    (s.halted = false ∧ ∃ k, nextKey s = some k ∧ t = keyEvent k (dropTape s)) ∨
    (s.halted = false ∧ nextKey s = none ∧
      ∃ i, decode (fetch (dropTape s)) = .ok i ∧ exec i (dropTape s) = .next t) := by
  unfold step at h
  split at h
  · next hh => exact .inl ⟨hh, (Host.Outcome.next.inj h).symm⟩
  · next hh =>
    have hh : s.halted = false := by simpa using hh
    split at h
    · next k hk => exact .inr (.inl ⟨hh, k, hk, (Host.Outcome.next.inj h).symm⟩)
    · next hk =>
      refine .inr (.inr ⟨hh, hk, ?_⟩)
      unfold runInstruction at h
      split at h
      · next i hi => exact ⟨i, hi, h⟩
      · cases h

/-- Moving the tape on leaves the fetched word as it is. -/
@[simp] theorem fetch_dropTape (s : State) : fetch (dropTape s) = fetch s := rfl

/-- The placed word is what the next fetch reads. -/
@[simp] theorem fetch_placeWord (s : State) (w : Word) : fetch (placeWord s w) = w := by
  have h : ∀ u : State, fetch (quietTape u) = fetch u := by
    intro u; unfold quietTape; split <;> rfl
  rw [placeWord, h]
  exact State.memRead_memWrite_same s s.pc w

end Sys2Proof.Machine
end

