-- ==== Sys2Proof/Laws/Glue.lean ====
section
/-!
SUPPORT. A word put together from its own fields, once for each format: what decoding cuts out, encoding puts back.
-/

namespace Sys2Proof

/-- Two adjacent fields are one field. -/
theorem glue (w : Word) {lo mid n m : Nat} (h : mid = lo + m) :
    field w mid n ++ field w lo m = field w lo (n + m) := by
  subst h
  apply BitVec.eq_of_getLsbD_eq
  intro i hi
  simp only [field, BitVec.getLsbD_append, BitVec.getLsbD_extractLsb']
  by_cases hm : i < m
  · simp [hm]; omega
  · have e : lo + m + (i - m) = lo + i := by omega
    have e' : i - m < n := by omega
    simp [hm, e, e', hi]

/-- A field whose bits a mask covers is zero where the masked word is. -/
theorem field_eq_zero {w mask : Word} {lo len : Nat} (h : w &&& mask = 0#32)
    (hm : ∀ i, i < len → mask.getLsbD (lo + i) = true) : field w lo len = 0#len := by
  apply BitVec.eq_of_getLsbD_eq
  intro i hi
  have := congrArg (fun v => v.getLsbD (lo + i)) h
  simp [hm i hi] at this
  simp [field, this, hi]

/-- A word of format `ARRR` is its fields side by side. -/
theorem formatARRR_glue (w : Word) {op6 : BitVec 6} (op : field w 7 6 = op6) (ty : field w 5 2 = 0b01#2)
    (cd : field w 0 5 = 0#5)
    (un : field w 28 4 = 0#4) :
    formatARRR op6 (regField w 13) (regField w 18) (regField w 23) = w := by
  simp only [formatARRR, regField, Reg.num_ofNum, ← op, ← ty, ← cd, ← un]
  rw [glue w (mid := 28) (lo := 23) (n := 4) (m := 5) rfl,
    glue w (mid := 23) (lo := 18) (n := 4 + 5) (m := 5) rfl,
    glue w (mid := 18) (lo := 13) (n := 4 + 5 + 5) (m := 5) rfl,
    glue w (mid := 13) (lo := 7) (n := 4 + 5 + 5 + 5) (m := 6) rfl,
    glue w (mid := 7) (lo := 5) (n := 4 + 5 + 5 + 5 + 6) (m := 2) rfl,
    glue w (mid := 5) (lo := 0) (n := 4 + 5 + 5 + 5 + 6 + 2) (m := 5) rfl]
  exact BitVec.extractLsb'_eq_self

/-- A word of format `ARRI` is its fields side by side. -/
theorem formatARRI_glue (w : Word) {op6 : BitVec 6} (op : field w 7 6 = op6) (ty : field w 5 2 = 0b01#2)
    (cd : field w 0 5 = 0#5) :
    formatARRI op6 (regField w 13) (regField w 18) (field w 23 9) = w := by
  simp only [formatARRI, regField, Reg.num_ofNum, ← op, ← ty, ← cd]
  rw [glue w (mid := 23) (lo := 18) (n := 9) (m := 5) rfl,
    glue w (mid := 18) (lo := 13) (n := 9 + 5) (m := 5) rfl,
    glue w (mid := 13) (lo := 7) (n := 9 + 5 + 5) (m := 6) rfl,
    glue w (mid := 7) (lo := 5) (n := 9 + 5 + 5 + 6) (m := 2) rfl,
    glue w (mid := 5) (lo := 0) (n := 9 + 5 + 5 + 6 + 2) (m := 5) rfl]
  exact BitVec.extractLsb'_eq_self

/-- A word of format `ARR` is its fields side by side. -/
theorem formatARR_glue (w : Word) {op6 : BitVec 6} (op : field w 7 6 = op6) (ty : field w 5 2 = 0b01#2)
    (cd : field w 0 5 = 0#5)
    (un : field w 23 9 = 0#9) :
    formatARR op6 (regField w 13) (regField w 18) = w := by
  simp only [formatARR, regField, Reg.num_ofNum, ← op, ← ty, ← cd, ← un]
  rw [glue w (mid := 23) (lo := 18) (n := 9) (m := 5) rfl,
    glue w (mid := 18) (lo := 13) (n := 9 + 5) (m := 5) rfl,
    glue w (mid := 13) (lo := 7) (n := 9 + 5 + 5) (m := 6) rfl,
    glue w (mid := 7) (lo := 5) (n := 9 + 5 + 5 + 6) (m := 2) rfl,
    glue w (mid := 5) (lo := 0) (n := 9 + 5 + 5 + 6 + 2) (m := 5) rfl]
  exact BitVec.extractLsb'_eq_self

/-- A word of format `ARI14` is its fields side by side. -/
theorem formatARI14_glue (w : Word) {op6 : BitVec 6} (op : field w 7 6 = op6) (ty : field w 5 2 = 0b01#2)
    (cd : field w 0 5 = 0#5) :
    formatARI14 op6 (regField w 13) (field w 18 14) = w := by
  simp only [formatARI14, regField, Reg.num_ofNum, ← op, ← ty, ← cd]
  rw [glue w (mid := 18) (lo := 13) (n := 14) (m := 5) rfl,
    glue w (mid := 13) (lo := 7) (n := 14 + 5) (m := 6) rfl,
    glue w (mid := 7) (lo := 5) (n := 14 + 5 + 6) (m := 2) rfl,
    glue w (mid := 5) (lo := 0) (n := 14 + 5 + 6 + 2) (m := 5) rfl]
  exact BitVec.extractLsb'_eq_self

/-- A word of format `MRR` is its fields side by side. -/
theorem formatMRR_glue (w : Word) {op3 : BitVec 3} (op : field w 7 3 = op3) (ty : field w 5 2 = 0b10#2)
    (cd : field w 0 5 = 0#5)
    (un : field w 20 12 = 0#12) :
    formatMRR op3 (regField w 10) (regField w 15) = w := by
  simp only [formatMRR, regField, Reg.num_ofNum, ← op, ← ty, ← cd, ← un]
  rw [glue w (mid := 20) (lo := 15) (n := 12) (m := 5) rfl,
    glue w (mid := 15) (lo := 10) (n := 12 + 5) (m := 5) rfl,
    glue w (mid := 10) (lo := 7) (n := 12 + 5 + 5) (m := 3) rfl,
    glue w (mid := 7) (lo := 5) (n := 12 + 5 + 5 + 3) (m := 2) rfl,
    glue w (mid := 5) (lo := 0) (n := 12 + 5 + 5 + 3 + 2) (m := 5) rfl]
  exact BitVec.extractLsb'_eq_self

/-- A word of format `MRI` is its fields side by side. -/
theorem formatMRI_glue (w : Word) {op3 : BitVec 3} (op : field w 7 3 = op3) (ty : field w 5 2 = 0b10#2)
    (cd : field w 0 5 = 0#5) :
    formatMRI op3 (regField w 10) (field w 15 17) = w := by
  simp only [formatMRI, regField, Reg.num_ofNum, ← op, ← ty, ← cd]
  rw [glue w (mid := 15) (lo := 10) (n := 17) (m := 5) rfl,
    glue w (mid := 10) (lo := 7) (n := 17 + 5) (m := 3) rfl,
    glue w (mid := 7) (lo := 5) (n := 17 + 5 + 3) (m := 2) rfl,
    glue w (mid := 5) (lo := 0) (n := 17 + 5 + 3 + 2) (m := 5) rfl]
  exact BitVec.extractLsb'_eq_self

/-- A word of format `MR` is its fields side by side. -/
theorem formatMR_glue (w : Word) {op3 : BitVec 3} (op : field w 7 3 = op3) (ty : field w 5 2 = 0b10#2)
    (cd : field w 0 5 = 0#5)
    (un : field w 15 17 = 0#17) :
    formatMR op3 (regField w 10) = w := by
  simp only [formatMR, regField, Reg.num_ofNum, ← op, ← ty, ← cd, ← un]
  rw [glue w (mid := 15) (lo := 10) (n := 17) (m := 5) rfl,
    glue w (mid := 10) (lo := 7) (n := 17 + 5) (m := 3) rfl,
    glue w (mid := 7) (lo := 5) (n := 17 + 5 + 3) (m := 2) rfl,
    glue w (mid := 5) (lo := 0) (n := 17 + 5 + 3 + 2) (m := 5) rfl]
  exact BitVec.extractLsb'_eq_self

/-- A word of format `C0` is its fields side by side. -/
theorem formatC0_glue (w : Word) {op3 : BitVec 3} {c : Cond} (op : field w 7 3 = op3) (ty : field w 5 2 = 0b00#2)
    (cd : field w 0 5 = c.code)
    (un : field w 10 22 = 0#22) :
    formatC0 op3 c = w := by
  simp only [formatC0, ← op, ← ty, ← cd, ← un]
  rw [glue w (mid := 10) (lo := 7) (n := 22) (m := 3) rfl,
    glue w (mid := 7) (lo := 5) (n := 22 + 3) (m := 2) rfl,
    glue w (mid := 5) (lo := 0) (n := 22 + 3 + 2) (m := 5) rfl]
  exact BitVec.extractLsb'_eq_self

/-- A word of format `CR` is its fields side by side. -/
theorem formatCR_glue (w : Word) {op3 : BitVec 3} {c : Cond} (op : field w 7 3 = op3) (ty : field w 5 2 = 0b00#2)
    (cd : field w 0 5 = c.code)
    (un : field w 15 17 = 0#17) :
    formatCR op3 c (regField w 10) = w := by
  simp only [formatCR, regField, Reg.num_ofNum, ← op, ← ty, ← cd, ← un]
  rw [glue w (mid := 15) (lo := 10) (n := 17) (m := 5) rfl,
    glue w (mid := 10) (lo := 7) (n := 17 + 5) (m := 3) rfl,
    glue w (mid := 7) (lo := 5) (n := 17 + 5 + 3) (m := 2) rfl,
    glue w (mid := 5) (lo := 0) (n := 17 + 5 + 3 + 2) (m := 5) rfl]
  exact BitVec.extractLsb'_eq_self

/-- A word of format `CI` is its fields side by side. -/
theorem formatCI_glue (w : Word) {op3 : BitVec 3} {c : Cond} (op : field w 7 3 = op3) (ty : field w 5 2 = 0b00#2)
    (cd : field w 0 5 = c.code) :
    formatCI op3 c (field w 10 22) = w := by
  simp only [formatCI, ← op, ← ty, ← cd]
  rw [glue w (mid := 10) (lo := 7) (n := 22) (m := 3) rfl,
    glue w (mid := 7) (lo := 5) (n := 22 + 3) (m := 2) rfl,
    glue w (mid := 5) (lo := 0) (n := 22 + 3 + 2) (m := 5) rfl]
  exact BitVec.extractLsb'_eq_self

/-- A word of format `GRRR` is its fields side by side. -/
theorem formatGRRR_glue (w : Word) {op3 : BitVec 3} (op : field w 7 3 = op3) (ty : field w 5 2 = 0b11#2)
    (cd : field w 0 5 = 0#5)
    (un : field w 25 7 = 0#7) :
    formatGRRR op3 (regField w 10) (regField w 15) (regField w 20) = w := by
  simp only [formatGRRR, regField, Reg.num_ofNum, ← op, ← ty, ← cd, ← un]
  rw [glue w (mid := 25) (lo := 20) (n := 7) (m := 5) rfl,
    glue w (mid := 20) (lo := 15) (n := 7 + 5) (m := 5) rfl,
    glue w (mid := 15) (lo := 10) (n := 7 + 5 + 5) (m := 5) rfl,
    glue w (mid := 10) (lo := 7) (n := 7 + 5 + 5 + 5) (m := 3) rfl,
    glue w (mid := 7) (lo := 5) (n := 7 + 5 + 5 + 5 + 3) (m := 2) rfl,
    glue w (mid := 5) (lo := 0) (n := 7 + 5 + 5 + 5 + 3 + 2) (m := 5) rfl]
  exact BitVec.extractLsb'_eq_self

/-- A word of format `GRR` is its fields side by side. -/
theorem formatGRR_glue (w : Word) {op3 : BitVec 3} (op : field w 7 3 = op3) (ty : field w 5 2 = 0b11#2)
    (cd : field w 0 5 = 0#5)
    (un : field w 20 12 = 0#12) :
    formatGRR op3 (regField w 10) (regField w 15) = w := by
  simp only [formatGRR, regField, Reg.num_ofNum, ← op, ← ty, ← cd, ← un]
  rw [glue w (mid := 20) (lo := 15) (n := 12) (m := 5) rfl,
    glue w (mid := 15) (lo := 10) (n := 12 + 5) (m := 5) rfl,
    glue w (mid := 10) (lo := 7) (n := 12 + 5 + 5) (m := 3) rfl,
    glue w (mid := 7) (lo := 5) (n := 12 + 5 + 5 + 3) (m := 2) rfl,
    glue w (mid := 5) (lo := 0) (n := 12 + 5 + 5 + 3 + 2) (m := 5) rfl]
  exact BitVec.extractLsb'_eq_self

/-- A word of format `GDIM` is its fields side by side. -/
theorem formatGDIM_glue (w : Word) {op3 : BitVec 3} (op : field w 7 3 = op3) (ty : field w 5 2 = 0b11#2)
    (cd : field w 0 5 = 0#5)
    (un : field w 24 8 = 0#8) :
    formatGDIM op3 (field w 10 7) (field w 17 7) = w := by
  simp only [formatGDIM, ← op, ← ty, ← cd, ← un]
  rw [glue w (mid := 24) (lo := 17) (n := 8) (m := 7) rfl,
    glue w (mid := 17) (lo := 10) (n := 8 + 7) (m := 7) rfl,
    glue w (mid := 10) (lo := 7) (n := 8 + 7 + 7) (m := 3) rfl,
    glue w (mid := 7) (lo := 5) (n := 8 + 7 + 7 + 3) (m := 2) rfl,
    glue w (mid := 5) (lo := 0) (n := 8 + 7 + 7 + 3 + 2) (m := 5) rfl]
  exact BitVec.extractLsb'_eq_self

/-- A word of format `GBLT` is its fields side by side. -/
theorem formatGBLT_glue (w : Word) {op3 : BitVec 3} (op : field w 7 3 = op3) (ty : field w 5 2 = 0b11#2)
    (cd : field w 0 5 = 0#5)
    (un : field w 22 10 = 0#10) :
    formatGBLT op3 (field w 10 4) (field w 14 8) = w := by
  simp only [formatGBLT, ← op, ← ty, ← cd, ← un]
  rw [glue w (mid := 22) (lo := 14) (n := 10) (m := 8) rfl,
    glue w (mid := 14) (lo := 10) (n := 10 + 8) (m := 4) rfl,
    glue w (mid := 10) (lo := 7) (n := 10 + 8 + 4) (m := 3) rfl,
    glue w (mid := 7) (lo := 5) (n := 10 + 8 + 4 + 3) (m := 2) rfl,
    glue w (mid := 5) (lo := 0) (n := 10 + 8 + 4 + 3 + 2) (m := 5) rfl]
  exact BitVec.extractLsb'_eq_self

end Sys2Proof
end

