-- ==== Sys2Proof/Laws/Loader.lean ====
section
/-! SUPPORT. What the loader puts where. -/

namespace Sys2Proof.Machine

/-- A loaded file lists its own bytes and nothing else (20_memory R75). -/
theorem find_cellsFrom (bs : List Byte) (a k : Nat) :
    Memory.find (cellsFrom a bs) k = if a ≤ k then bs[k - a]? else none := by
  induction bs generalizing a with
  | nil => simp [cellsFrom, Memory.find]
  | cons b bs ih =>
    simp only [cellsFrom, Memory.find, ih]
    rcases Nat.lt_trichotomy a k with h | rfl | h
    · have e : k - a = k - (a + 1) + 1 := by omega
      rw [if_neg (by omega), if_pos (by omega), if_pos (by omega), e, List.getElem?_cons_succ]
    · simp
    · rw [if_neg (by omega), if_neg (by omega), if_neg (by omega)]

/-- A loaded file is in canonical form where it fits (20_memory R75, log 1). -/
theorem wf_cellsFrom (bs : List Byte) (a size : Nat) (h : a + bs.length ≤ size) :
    Memory.wf size (cellsFrom a bs) = true := by
  have key : ∀ (bs : List Byte) (a : Nat), ∀ c ∈ cellsFrom a bs, a ≤ c.1 ∧ c.1 < a + bs.length := by
    intro bs
    induction bs with
    | nil => simp [cellsFrom]
    | cons b bs ih =>
      intro a c hc
      rcases List.mem_cons.1 hc with rfl | hc
      · simp
      · have := ih (a + 1) c hc
        simp only [List.length_cons]
        omega
  have rising : ∀ (bs : List Byte) (a : Nat), Memory.rising (cellsFrom a bs) = true := by
    intro bs
    induction bs with
    | nil => intro; rfl
    | cons b bs ih =>
      intro a
      rw [cellsFrom, Memory.rising_cons]
      exact ⟨fun y hy => (key bs (a + 1) y hy).1, ih (a + 1)⟩
  simp only [Memory.wf, Bool.and_eq_true, List.all_eq_true, decide_eq_true_eq]
  exact ⟨rising bs a, fun c hc => Nat.lt_of_lt_of_le (key bs a c hc).2 h⟩

end Sys2Proof.Machine
end

