-- ==== Sys2Proof/Laws/PerInstr.lean ====
section
/-!
SUPPORT. Statements made once per instruction, one lemma for each constructor of `Instr`.
-/

open Sys2Proof

/-- The encoder has a word for an instruction exactly where the instruction is well-formed (30_encoding R97, R100..R103). -/
def Sys2Proof.Laws.Encodable.Statement (i : Sys2Proof.Instr) : Prop :=
  (Sys2Proof.encode i).isSome = i.wellFormed

theorem Sys2Proof.Laws.Encodable.adduReg (ra rb rc : Reg) :
    Sys2Proof.Laws.Encodable.Statement (.adduReg ra rb rc) := rfl

theorem Sys2Proof.Laws.Encodable.addsReg (ra rb rc : Reg) :
    Sys2Proof.Laws.Encodable.Statement (.addsReg ra rb rc) := rfl

theorem Sys2Proof.Laws.Encodable.adduImm (ra rb : Reg) (imm9 : BitVec 9) :
    Sys2Proof.Laws.Encodable.Statement (.adduImm ra rb imm9) := rfl

theorem Sys2Proof.Laws.Encodable.addsImm (ra rb : Reg) (imm9 : BitVec 9) :
    Sys2Proof.Laws.Encodable.Statement (.addsImm ra rb imm9) := rfl

theorem Sys2Proof.Laws.Encodable.subuReg (ra rb rc : Reg) :
    Sys2Proof.Laws.Encodable.Statement (.subuReg ra rb rc) := rfl

theorem Sys2Proof.Laws.Encodable.subsReg (ra rb rc : Reg) :
    Sys2Proof.Laws.Encodable.Statement (.subsReg ra rb rc) := rfl

theorem Sys2Proof.Laws.Encodable.subuImm (ra rb : Reg) (imm9 : BitVec 9) :
    Sys2Proof.Laws.Encodable.Statement (.subuImm ra rb imm9) := rfl

theorem Sys2Proof.Laws.Encodable.subsImm (ra rb : Reg) (imm9 : BitVec 9) :
    Sys2Proof.Laws.Encodable.Statement (.subsImm ra rb imm9) := rfl

theorem Sys2Proof.Laws.Encodable.mltuReg (ra rb rc : Reg) :
    Sys2Proof.Laws.Encodable.Statement (.mltuReg ra rb rc) := rfl

theorem Sys2Proof.Laws.Encodable.mltsReg (ra rb rc : Reg) :
    Sys2Proof.Laws.Encodable.Statement (.mltsReg ra rb rc) := rfl

theorem Sys2Proof.Laws.Encodable.mltuImm (ra rb : Reg) (imm9 : BitVec 9) :
    Sys2Proof.Laws.Encodable.Statement (.mltuImm ra rb imm9) := rfl

theorem Sys2Proof.Laws.Encodable.mltsImm (ra rb : Reg) (imm9 : BitVec 9) :
    Sys2Proof.Laws.Encodable.Statement (.mltsImm ra rb imm9) := rfl

theorem Sys2Proof.Laws.Encodable.divuReg (ra rb rc : Reg) :
    Sys2Proof.Laws.Encodable.Statement (.divuReg ra rb rc) := rfl

theorem Sys2Proof.Laws.Encodable.divsReg (ra rb rc : Reg) :
    Sys2Proof.Laws.Encodable.Statement (.divsReg ra rb rc) := rfl

theorem Sys2Proof.Laws.Encodable.divuImm (ra rb : Reg) (imm9 : BitVec 9) :
    Sys2Proof.Laws.Encodable.Statement (.divuImm ra rb imm9) := rfl

theorem Sys2Proof.Laws.Encodable.divsImm (ra rb : Reg) (imm9 : BitVec 9) :
    Sys2Proof.Laws.Encodable.Statement (.divsImm ra rb imm9) := rfl

theorem Sys2Proof.Laws.Encodable.mv (ra rb : Reg) :
    Sys2Proof.Laws.Encodable.Statement (.mv ra rb) := rfl

theorem Sys2Proof.Laws.Encodable.cmp (ra rb : Reg) :
    Sys2Proof.Laws.Encodable.Statement (.cmp ra rb) := rfl

theorem Sys2Proof.Laws.Encodable.aslReg (ra rb : Reg) :
    Sys2Proof.Laws.Encodable.Statement (.aslReg ra rb) := rfl

theorem Sys2Proof.Laws.Encodable.asrReg (ra rb : Reg) :
    Sys2Proof.Laws.Encodable.Statement (.asrReg ra rb) := rfl

theorem Sys2Proof.Laws.Encodable.aslImm (ra : Reg) (imm14 : BitVec 14) :
    Sys2Proof.Laws.Encodable.Statement (.aslImm ra imm14) := rfl

theorem Sys2Proof.Laws.Encodable.asrImm (ra : Reg) (imm14 : BitVec 14) :
    Sys2Proof.Laws.Encodable.Statement (.asrImm ra imm14) := rfl

theorem Sys2Proof.Laws.Encodable.lslReg (ra rb : Reg) :
    Sys2Proof.Laws.Encodable.Statement (.lslReg ra rb) := rfl

theorem Sys2Proof.Laws.Encodable.lslImm (ra : Reg) (imm14 : BitVec 14) :
    Sys2Proof.Laws.Encodable.Statement (.lslImm ra imm14) := rfl

theorem Sys2Proof.Laws.Encodable.lsrReg (ra rb : Reg) :
    Sys2Proof.Laws.Encodable.Statement (.lsrReg ra rb) := rfl

theorem Sys2Proof.Laws.Encodable.lsrImm (ra : Reg) (imm14 : BitVec 14) :
    Sys2Proof.Laws.Encodable.Statement (.lsrImm ra imm14) := rfl

theorem Sys2Proof.Laws.Encodable.andReg (ra rb rc : Reg) :
    Sys2Proof.Laws.Encodable.Statement (.andReg ra rb rc) := rfl

theorem Sys2Proof.Laws.Encodable.andImm (ra rb : Reg) (imm9 : BitVec 9) :
    Sys2Proof.Laws.Encodable.Statement (.andImm ra rb imm9) := rfl

theorem Sys2Proof.Laws.Encodable.orReg (ra rb rc : Reg) :
    Sys2Proof.Laws.Encodable.Statement (.orReg ra rb rc) := rfl

theorem Sys2Proof.Laws.Encodable.orImm (ra rb : Reg) (imm9 : BitVec 9) :
    Sys2Proof.Laws.Encodable.Statement (.orImm ra rb imm9) := rfl

theorem Sys2Proof.Laws.Encodable.xorReg (ra rb rc : Reg) :
    Sys2Proof.Laws.Encodable.Statement (.xorReg ra rb rc) := rfl

theorem Sys2Proof.Laws.Encodable.xorImm (ra rb : Reg) (imm9 : BitVec 9) :
    Sys2Proof.Laws.Encodable.Statement (.xorImm ra rb imm9) := rfl

theorem Sys2Proof.Laws.Encodable.notReg (ra rb : Reg) :
    Sys2Proof.Laws.Encodable.Statement (.notReg ra rb) := rfl

theorem Sys2Proof.Laws.Encodable.ldrReg (ra rb : Reg) :
    Sys2Proof.Laws.Encodable.Statement (.ldrReg ra rb) := rfl

theorem Sys2Proof.Laws.Encodable.ldrImm (ra : Reg) (imm17 : BitVec 17) :
    Sys2Proof.Laws.Encodable.Statement (.ldrImm ra imm17) := rfl

theorem Sys2Proof.Laws.Encodable.strReg (ra rb : Reg) :
    Sys2Proof.Laws.Encodable.Statement (.strReg ra rb) := rfl

theorem Sys2Proof.Laws.Encodable.strImm (ra : Reg) (imm17 : BitVec 17) :
    Sys2Proof.Laws.Encodable.Statement (.strImm ra imm17) := rfl

theorem Sys2Proof.Laws.Encodable.push (ra : Reg) :
    Sys2Proof.Laws.Encodable.Statement (.push ra) := rfl

theorem Sys2Proof.Laws.Encodable.pop (ra : Reg) :
    Sys2Proof.Laws.Encodable.Statement (.pop ra) := rfl

theorem Sys2Proof.Laws.Encodable.halt :
    Sys2Proof.Laws.Encodable.Statement (.halt) := rfl

theorem Sys2Proof.Laws.Encodable.jmpReg (c : Cond) (ra : Reg) :
    Sys2Proof.Laws.Encodable.Statement (.jmpReg c ra) := rfl

theorem Sys2Proof.Laws.Encodable.jmpImm (c : Cond) (imm22 : BitVec 22) :
    Sys2Proof.Laws.Encodable.Statement (.jmpImm c imm22) := rfl

theorem Sys2Proof.Laws.Encodable.jmpsReg (c : Cond) (ra : Reg) :
    Sys2Proof.Laws.Encodable.Statement (.jmpsReg c ra) := rfl

theorem Sys2Proof.Laws.Encodable.jmpsImm (c : Cond) (imm22 : BitVec 22) :
    Sys2Proof.Laws.Encodable.Statement (.jmpsImm c imm22) := rfl

theorem Sys2Proof.Laws.Encodable.jmpi (c : Cond) :
    Sys2Proof.Laws.Encodable.Statement (.jmpi c) := rfl

theorem Sys2Proof.Laws.Encodable.glodReg (ra rb rc : Reg) :
    Sys2Proof.Laws.Encodable.Statement (.glodReg ra rb rc) := rfl

theorem Sys2Proof.Laws.Encodable.glodImm (dest12 : BitVec 12) (src10 : BitVec 10) (len12 : BitVec 12) :
    Sys2Proof.Laws.Encodable.Statement (.glodImm dest12 src10 len12) := rfl

theorem Sys2Proof.Laws.Encodable.blitmem (ra rb : Reg) :
    Sys2Proof.Laws.Encodable.Statement (.blitmem ra rb) := rfl

theorem Sys2Proof.Laws.Encodable.blitdimsReg (ra rb : Reg) :
    Sys2Proof.Laws.Encodable.Statement (.blitdimsReg ra rb) := rfl

theorem Sys2Proof.Laws.Encodable.blitdimsImm (w7 h7 : BitVec 7) :
    Sys2Proof.Laws.Encodable.Statement (.blitdimsImm w7 h7) := rfl

theorem Sys2Proof.Laws.Encodable.blitReg (ra rb : Reg) :
    Sys2Proof.Laws.Encodable.Statement (.blitReg ra rb) := rfl

theorem Sys2Proof.Laws.Encodable.blitImm (bop4 : BitVec 4) (mask8 : BitVec 8) :
    Sys2Proof.Laws.Encodable.Statement (.blitImm bop4 mask8) := rfl
end

