-- ==== Sys2Proof/Tests/Slice0.lean ====
section
/-!
SUPPORT. Tests: words written out from the formats, one small step per case, and for each statement with hypotheses a
concrete state that meets them. Expected values are the vectors of 95_test_vectors and the examples of 40_alu..43_graphics.
-/

namespace Sys2Proof.Machine.Tests

/-- The reset state, changed by `f`, with a word at its `pc`. -/
def start (w : Word) (f : State → State) : State := (f State.reset).memWrite (f State.reset).pc w

/-- What `obs` sees after one step on a word. -/
def after {α : Type} (w : Word) (f : State → State) (obs : State → α) : Option α :=
  match step (start w f) with
  | .next t => some (obs t)
  | _ => none

/-- Why a step on a word is refused. -/
def refusal (w : Word) (f : State → State) : Option Refusal :=
  match step (start w f) with
  | .refused r => some r
  | _ => none

/-- The reset state with two general registers set. -/
def two (a : Fin 26) (v : Word) (b : Fin 26) (w : Word) (s : State) : State := (s.withGpr a v).withGpr b w

/-- General register `n`. -/
def r (n : Fin 26) (s : State) : Word := readReg s (.gpr n)

/-- General register 3 and `pc`. -/
def r3pc (s : State) : Word × Word := (r 3 s, s.pc)

/-- General register 4 and `pc`. -/
def r4pc (s : State) : Word × Word := (r 4 s, s.pc)

/-- The sprite library with bytes from address `a` on. -/
def sprites (bs : List Byte) (a : Nat) : Memory := bs.mapIdx fun k b => (a + k, b)

/-- A sprite, and the Blitter's registers. -/
def blitter (bs : List Byte) (at_ : Nat) (src : BitVec 12) (dst : BitVec 16) (w h : BitVec 7) (s : State) : State :=
  ((s.withSprite (sprites bs at_)).withBlitMem src dst).withBlitDims w h

/-! Well-formedness. -/

/-- 43_graphics R225: the one ill-formed instruction is refused by the check and has no word. -/
theorem test_glodImm_ill_formed :
    (Instr.glodImm 0#12 0#10 0#12).wellFormed = false ∧ encode (.glodImm 0#12 0#10 0#12) = none := by decide

/-- 30_encoding R100: any other instruction is well-formed. -/
theorem test_glodReg_well_formed : (Instr.glodReg (.gpr 0) (.gpr 1) (.gpr 2)).wellFormed = true := by decide

/-! Decoding: a word for every constructor but `GLOD` immediate, both ways. -/

/-- The word decodes to the instruction and the instruction encodes to the word. -/
def agree (ps : List (Word × Instr)) : Bool :=
  ps.all fun p => decodeTableWord 32 p.1.toNat == some p.2 && encode p.2 == some p.1


/-- 40_alu R133..R140. -/
theorem test_decode_add_sub : agree
    [(0x01046020#32, .adduReg (.gpr 3) (.gpr 1) (.gpr 2)),
     (0x010460A0#32, .addsReg (.gpr 3) (.gpr 1) (.gpr 2)),
     (0x02846120#32, .adduImm (.gpr 3) (.gpr 1) 5#9),
     (0xFF8461A0#32, .addsImm (.gpr 3) (.gpr 1) 0x1FF#9),
     (0x01046220#32, .subuReg (.gpr 3) (.gpr 1) (.gpr 2)),
     (0x010462A0#32, .subsReg (.gpr 3) (.gpr 1) (.gpr 2)),
     (0x00842320#32, .subuImm (.gpr 1) (.gpr 1) 1#9),
     (0xFF0463A0#32, .subsImm (.gpr 3) (.gpr 1) 0x1FE#9)] = true := by decide

/-- 40_alu R141..R148. -/
theorem test_decode_mlt_div : agree
    [(0x01046420#32, .mltuReg (.gpr 3) (.gpr 1) (.gpr 2)),
     (0x010464A0#32, .mltsReg (.gpr 3) (.gpr 1) (.gpr 2)),
     (0x05046520#32, .mltuImm (.gpr 3) (.gpr 1) 10#9),
     (0xFE8465A0#32, .mltsImm (.gpr 3) (.gpr 1) 0x1FD#9),
     (0x01046620#32, .divuReg (.gpr 3) (.gpr 1) (.gpr 2)),
     (0x010466A0#32, .divsReg (.gpr 3) (.gpr 1) (.gpr 2)),
     (0x03846720#32, .divuImm (.gpr 3) (.gpr 1) 7#9),
     (0xFF0467A0#32, .divsImm (.gpr 3) (.gpr 1) 0x1FE#9)] = true := by decide

/-- 40_alu R149..R159. -/
theorem test_decode_move_compare_shift : agree
    [(0x0018A820#32, .mv (.gpr 5) (.gpr 6)),
     (0x00076820#32, .mv .ihdlr (.gpr 1)),
     (0x000828A0#32, .cmp (.gpr 1) (.gpr 2)),
     (0x001C8920#32, .aslReg (.gpr 4) (.gpr 7)),
     (0x001C89A0#32, .asrReg (.gpr 4) (.gpr 7)),
     (0xFFFC8A20#32, .aslImm (.gpr 4) 0x3FFF#14),
     (0x00108AA0#32, .asrImm (.gpr 4) 4#14),
     (0x001C8B20#32, .lslReg (.gpr 4) (.gpr 7)),
     (0x00208BA0#32, .lslImm (.gpr 4) 8#14),
     (0x001C8C20#32, .lsrReg (.gpr 4) (.gpr 7)),
     (0x00808CA0#32, .lsrImm (.gpr 4) 32#14)] = true := by decide

/-- 40_alu R160..R166. -/
theorem test_decode_logic : agree
    [(0x01046D20#32, .andReg (.gpr 3) (.gpr 1) (.gpr 2)),
     (0x07846DA0#32, .andImm (.gpr 3) (.gpr 1) 0x0F#9),
     (0x01046E20#32, .orReg (.gpr 3) (.gpr 1) (.gpr 2)),
     (0x80046EA0#32, .orImm (.gpr 3) (.gpr 1) 0x100#9),
     (0x01046F20#32, .xorReg (.gpr 3) (.gpr 1) (.gpr 2)),
     (0xFF846FA0#32, .xorImm (.gpr 3) (.gpr 1) 0x1FF#9),
     (0x00047020#32, .notReg (.gpr 3) (.gpr 1))] = true := by decide

/-- 41_memory_instructions R182..R187. -/
theorem test_decode_memory : agree
    [(0x00010440#32, .ldrReg (.gpr 1) (.gpr 2)),
     (0xFFFD08C0#32, .ldrImm (.gpr 2) 0x1FFFA#17),
     (0x00010540#32, .strReg (.gpr 1) (.gpr 2)),
     (0x000E05C0#32, .strImm (.gpr 1) 28#17),
     (0x00007E40#32, .push .lr),
     (0x00000AC0#32, .pop (.gpr 2))] = true := by decide

/-- 42_control R201..R206. -/
theorem test_decode_control : agree
    [(0x00000000#32, .halt),
     (0x00001082#32, .jmpReg .e (.gpr 4)),
     (0xFFFFF503#32, .jmpImm .gt 0x3FFFFD#22),
     (0x00001180#32, .jmpsReg .ns (.gpr 4)),
     (0x00000E04#32, .jmpsImm .lt 3#22),
     (0x00000282#32, .jmpi .e)] = true := by decide

/-- 43_graphics R224..R230. -/
theorem test_decode_graphics : agree
    [(0x007314E0#32, .glodReg (.gpr 5) (.gpr 6) (.gpr 7)),
     (0x000201E0#32, .blitmem (.gpr 0) (.gpr 4)),
     (0x00018E60#32, .blitdimsReg (.gpr 3) (.gpr 3)),
     (0x001042E0#32, .blitdimsImm 16#7 8#7),
     (0x0004A360#32, .blitReg (.gpr 8) (.gpr 9)),
     (0x00381BE0#32, .blitImm 6#4 0xE0#8)] = true := by decide

/-- The refusal of a word, if it is refused. -/
def refusedAs (w : Word) : Option DecodeRefusal :=
  match decode w with
  | .ok _ => none
  | .error e => some e

/-- 30_encoding R104, R110, R111: the refused words of 95_test_vectors section 7. -/
theorem test_decode_reserved :
    [0x000010A0#32, 0x00001FA0#32, 0x00000340#32, 0x000003C0#32, 0x00000300#32, 0x00000380#32, 0x00000060#32,
     0x00000002#32, 0x01046022#32, 0x80000000#32, 0x008828A0#32, 0x00008280#32, 0xFFFFFFFF#32, 0x0000ABCD#32].all
      (fun w => refusedAs w == some .reservedEncoding) = true := by decide

/-- 43_graphics R225, 10_state R33: the other refusals of 95_test_vectors sections 4.2 and 7. -/
theorem test_decode_refused_otherwise :
    refusedAs 0x00000160#32 = some .unencodableGlodImmediate ∧
    [0x00001506#32, 0x0000150D#32, 0x0000109F#32, 0x44332211#32].all
      (fun w => refusedAs w == some .invalidConditionCode) = true := by decide

/-- 95_test_vectors 4.3: the relation as a table, a row for each condition, a column for each status. -/
theorem test_condMatch_table :
    ([.ns, .ne, .e, .gt, .lt, .gte, .lte, .of, .z, .nz, .neg, .pos] : List Cond).map (fun c =>
      ([.ns, .ne, .e, .gt, .lt, .gte, .lte, .of, .z, .nz, .neg, .pos] : List Cond).map fun s =>
        if condRelation c s then 'T' else '.') =
    ["TTTTTTTTTTTT", "TT.TT.......", "T.T.........", "T..T........", "T...T.......", "T.TT.T......", "T.T.T.T.....",
     "T......T....", "T.......T...", "T........T..", "T.........T.", "T..........T"].map String.toList := by decide

/-! One step of each instruction. -/

/-- 95_test_vectors 2.1 -/
theorem test_addu_wraps :
    after 0x01046020#32 (two 1 0xFFFFFFFF#32 2 1#32) r3pc = some (0#32, 1#32) := by decide

/-- 95_test_vectors 2.1 -/
theorem test_adds_wraps :
    after 0x010460A0#32 (two 1 0x7FFFFFFF#32 2 1#32) r3pc = some (0x80000000#32, 1#32) := by decide

/-- 95_test_vectors 2.1 -/
theorem test_addu_imm_extends :
    after 0xFF846120#32 (·.withGpr 1 5#32) r3pc = some (4#32, 1#32) := by decide

/-- 95_test_vectors 2.1 -/
theorem test_adds_imm :
    after 0xFF8461A0#32 id r3pc = some (0xFFFFFFFF#32, 1#32) := by decide

/-- 95_test_vectors 2.1 -/
theorem test_addu_same_register :
    after 0x00842020#32 (·.withGpr 1 21#32) (r 1) = some 42#32 := by decide

/-- 95_test_vectors 2.1 -/
theorem test_addu_pc :
    refusal 0x02038120#32 id = some .pcAsDestination := by decide

/-- 95_test_vectors 2.1 -/
theorem test_subu_wraps :
    after 0x01046220#32 (two 1 0#32 2 1#32) r3pc = some (0xFFFFFFFF#32, 1#32) := by decide

/-- 95_test_vectors 2.1 -/
theorem test_subs_wraps :
    after 0x010462A0#32 (two 1 0x80000000#32 2 1#32) r3pc = some (0x7FFFFFFF#32, 1#32) := by decide

/-- 95_test_vectors 2.1 -/
theorem test_subu_imm :
    after 0x00842320#32 (·.withGpr 1 1#32) (r 1) = some 0#32 := by decide

/-- 95_test_vectors 2.1 -/
theorem test_subs_imm :
    after 0xFF0463A0#32 (·.withGpr 1 5#32) r3pc = some (7#32, 1#32) := by decide

/-- 95_test_vectors 2.1 -/
theorem test_mltu_truncates :
    after 0x01046420#32 (two 1 0x00010000#32 2 0x00010000#32) r3pc = some (0#32, 1#32) := by decide

/-- 95_test_vectors 2.1 -/
theorem test_mlts :
    after 0x010464A0#32 (two 1 0xFFFFFFFF#32 2 0xFFFFFFFF#32) r3pc = some (1#32, 1#32) := by decide

/-- 95_test_vectors 2.1 -/
theorem test_mltu_imm :
    after 0x05046520#32 (·.withGpr 1 12#32) r3pc = some (120#32, 1#32) := by decide

/-- 95_test_vectors 2.1 -/
theorem test_mlts_imm :
    after 0xFE8465A0#32 (·.withGpr 1 7#32) r3pc = some (0xFFFFFFEB#32, 1#32) := by decide

/-- 95_test_vectors 2.2 -/
theorem test_divu :
    after 0x01046620#32 (two 1 0xFFFFFFFE#32 2 2#32) r3pc = some (0x7FFFFFFF#32, 1#32) := by decide

/-- 95_test_vectors 2.2 -/
theorem test_divu_zero :
    refusal 0x01046620#32 (two 1 5#32 2 0#32) = some .divisionByZero := by decide

/-- 95_test_vectors 2.2 -/
theorem test_divs_truncates :
    after 0x010466A0#32 (two 1 0xFFFFFFF9#32 2 2#32) r3pc = some (0xFFFFFFFD#32, 1#32) := by decide

/-- 95_test_vectors 2.2 -/
theorem test_divs_overflow :
    refusal 0x010466A0#32 (two 1 0x80000000#32 2 0xFFFFFFFF#32) = some .signedDivisionOverflow := by decide

/-- 95_test_vectors 2.2 -/
theorem test_divu_imm_extends :
    after 0xFF046720#32 (·.withGpr 1 0xFFFFFFFF#32) r3pc = some (1#32, 1#32) := by decide

/-- 95_test_vectors 2.2 -/
theorem test_divs_imm_truncates :
    after 0xFF0467A0#32 (·.withGpr 1 7#32) r3pc = some (0xFFFFFFFD#32, 1#32) := by decide

/-- 95_test_vectors 2.3 -/
theorem test_mv_reads_own_address :
    after 0x00702820#32 (·.withPc 7#32) (fun s => (r 1 s, s.pc)) = some (7#32, 8#32) := by decide

/-- 95_test_vectors 2.3 -/
theorem test_mv_to_status :
    after 0x0007A820#32 (·.withGpr 1 0xFFFFFFE3#32) (fun s => (s.cc, s.iflag)) = some (3#5, true) := by decide

/-- 95_test_vectors 2.3 -/
theorem test_cmp_greater :
    after 0x000828A0#32 (fun s => (two 1 5#32 2 3#32 s).withSts 0b100100#6) (fun s => (s.cc, s.iflag, s.pc)) =
      some (3#5, true, 1#32) := by decide

/-- 95_test_vectors 2.3 -/
theorem test_cmp_unsigned :
    after 0x000828A0#32 (two 1 0x80000000#32 2 0x7FFFFFFF#32) (fun s => s.cc) = some 3#5 := by decide

/-- 95_test_vectors 2.4 -/
theorem test_asl :
    after 0x001C8920#32 (two 4 1#32 7 31#32) r4pc = some (0x80000000#32, 1#32) := by decide

/-- 95_test_vectors 2.4 -/
theorem test_asl_imm_loses_sign :
    after 0x000C8A20#32 (·.withGpr 4 0x30000000#32) r4pc = some (0x80000000#32, 1#32) := by decide

/-- 95_test_vectors 2.4 -/
theorem test_asl_imm_negative :
    refusal 0xFFFC8A20#32 (·.withGpr 4 1#32) = some .shiftAmountOutOfRange := by decide

/-- 95_test_vectors 2.4 -/
theorem test_asr_fills_with_sign :
    after 0x001C89A0#32 (two 4 0x80000000#32 7 31#32) r4pc = some (0xFFFFFFFF#32, 1#32) := by decide

/-- 95_test_vectors 2.4 -/
theorem test_asr_whole_register_counts :
    refusal 0x001C89A0#32 (two 4 1#32 7 256#32) = some .shiftAmountOutOfRange := by decide

/-- 95_test_vectors 2.4 -/
theorem test_asr_imm :
    after 0x00108AA0#32 (·.withGpr 4 0x70000000#32) r4pc = some (0x07000000#32, 1#32) := by decide

/-- 95_test_vectors 2.4 -/
theorem test_lsl :
    after 0x001C8B20#32 (two 4 0xFFFFFFFF#32 7 4#32) r4pc = some (0xFFFFFFF0#32, 1#32) := by decide

/-- 95_test_vectors 2.4 -/
theorem test_lsl_by_32 :
    refusal 0x001C8B20#32 (two 4 1#32 7 32#32) = some .shiftAmountOutOfRange := by decide

/-- 95_test_vectors 2.4 -/
theorem test_lsl_imm :
    after 0x007C8BA0#32 (·.withGpr 4 3#32) r4pc = some (0x80000000#32, 1#32) := by decide

/-- 95_test_vectors 2.4 -/
theorem test_lsr :
    after 0x001C8C20#32 (two 4 0x80000000#32 7 31#32) r4pc = some (1#32, 1#32) := by decide

/-- 95_test_vectors 2.4 -/
theorem test_lsr_imm :
    after 0x00108CA0#32 (·.withGpr 4 0xF0000000#32) r4pc = some (0x0F000000#32, 1#32) := by decide

/-- 95_test_vectors 2.5 -/
theorem test_and :
    after 0x01046D20#32 (two 1 0xFF00FF00#32 2 0x0FF00FF0#32) r3pc = some (0x0F000F00#32, 1#32) := by decide

/-- 95_test_vectors 2.5 -/
theorem test_and_imm_extends :
    after 0xF8046DA0#32 (·.withGpr 1 0xABCD1234#32) r3pc = some (0xABCD1230#32, 1#32) := by decide

/-- 95_test_vectors 2.5 -/
theorem test_or :
    after 0x01046E20#32 (two 1 240#32 2 15#32) r3pc = some (255#32, 1#32) := by decide

/-- 95_test_vectors 2.5 -/
theorem test_or_imm_extends :
    after 0x80046EA0#32 (·.withGpr 1 18#32) r3pc = some (0xFFFFFF12#32, 1#32) := by decide

/-- 95_test_vectors 2.5 -/
theorem test_xor :
    after 0x01046F20#32 (two 1 0xAAAA5555#32 2 0xFFFF0000#32) r3pc = some (0x55555555#32, 1#32) := by decide

/-- 95_test_vectors 2.5 -/
theorem test_xor_imm_extends :
    after 0xFF846FA0#32 id r3pc = some (0xFFFFFFFF#32, 1#32) := by decide

/-- 95_test_vectors 2.5 -/
theorem test_not :
    after 0x00047020#32 (·.withGpr 1 0x0F0F0F0F#32) r3pc = some (0xF0F0F0F0#32, 1#32) := by decide

/-- 95_test_vectors 3.1 -/
theorem test_ldr_own_word :
    after 0x000E0440#32 (·.withPc 6#32) (fun s => (r 1 s, s.pc)) = some (0x000E0440#32, 7#32) := by decide

/-- 95_test_vectors 3.1 -/
theorem test_ldr_status :
    after 0x00017440#32 (fun s => (s.withGpr 2 100#32).memWrite 100#32 35#32) (fun s => (s.cc, s.iflag)) =
      some (3#5, true) := by decide

/-- 95_test_vectors 3.1 -/
theorem test_ldr_imm_wraps :
    after 0xFFFD08C0#32 (fun s => (s.withPc 4#32).memWrite 0xFFFFFFFF#32 1#32) (fun s => (r 2 s, s.pc)) =
      some (1#32, 5#32) := by decide

/-- 95_test_vectors 3.1 -/
theorem test_str_top :
    after 0x00010540#32 (two 1 9#32 2 0xFFFFFFFF#32) (fun s => (s.memRead 0xFFFFFFFF#32, s.pc)) = some (9#32, 1#32) := by decide

/-- 95_test_vectors 3.1 -/
theorem test_str_imm :
    after 0x000E05C0#32 (fun s => (s.withPc 3#32).withGpr 1 49#32) (fun s => (s.memRead 32#32, s.pc)) =
      some (49#32, 4#32) := by decide

/-- 95_test_vectors 3.1 -/
theorem test_str_imm_next_instruction :
    after 0x000001C0#32 (fun s => (s.withPc 5#32).memWrite 6#32 0x00047020#32) fetch = some 0#32 := by decide

/-- 95_test_vectors 3.2 -/
theorem test_push_sp :
    after 0x00007A40#32 (·.withSp 10#32) (fun s => (s.sp, s.memRead 9#32)) = some (9#32, 9#32) := by decide

/-- 95_test_vectors 3.2 -/
theorem test_push_wraps :
    after 0x00000640#32 (·.withGpr 1 85#32) (fun s => (s.sp, s.memRead 0xFFFFFFFF#32)) =
      some (0xFFFFFFFF#32, 85#32) := by decide

/-- 95_test_vectors 3.2 -/
theorem test_pop_sp :
    after 0x00007AC0#32 (fun s => (s.withSp 20#32).memWrite 20#32 100#32) (fun s => (s.sp, s.pc)) = some (101#32, 1#32) := by decide

/-- 95_test_vectors 3.2; and 41_memory_instructions R187 with 10_state R28 for R29, which takes the low six bits. -/
theorem test_pop_lr_sts :
    after 0x00007EC0#32 (fun s => (s.withSp 127#32).memWrite 127#32 3#32) (fun s => (s.lr, s.sp)) =
      some (3#32, 128#32) ∧
    after 0x000076C0#32 (fun s => (s.withSp 127#32).memWrite 127#32 0xFE3#32) (fun s => (readReg s .sts, s.sp)) =
      some (0x23#32, 128#32) := by decide

/-- 95_test_vectors 4.1 -/
theorem test_halt :
    after 0x00000000#32 (·.withPc 4#32) (fun s => (s.halted, s.pc)) = some (true, 4#32) := by decide

/-- 95_test_vectors 4.1 -/
theorem test_jmp_not_taken :
    after 0x00001082#32 (fun s => ((s.withPc 8#32).withGpr 4 40#32).withSts 3#6) (fun s => s.pc) = some 9#32 := by decide

/-- 95_test_vectors 4.1 -/
theorem test_jmp_status_null :
    after 0x00001082#32 (fun s => (s.withPc 8#32).withGpr 4 40#32) (fun s => s.pc) = some 40#32 := by decide

/-- 95_test_vectors 4.1 -/
theorem test_jmp_imm_wraps :
    after 0xFFFFFD00#32 id (fun s => s.pc) = some 0xFFFFFFFF#32 := by decide

/-- 95_test_vectors 4.1 -/
theorem test_jmp_imm_not_taken :
    after 0xFFFFF503#32 (fun s => (s.withPc 4#32).withSts 2#6) (fun s => s.pc) = some 5#32 := by decide

/-- 95_test_vectors 4.1 -/
theorem test_jmps_lr :
    after 0x00007D80#32 (fun s => (s.withPc 10#32).withLr 99#32) (fun s => (s.lr, s.pc)) = some (11#32, 11#32) := by decide

/-- 95_test_vectors 4.1 -/
theorem test_jmps_imm :
    after 0x00000E00#32 (·.withPc 2#32) (fun s => (s.lr, s.pc)) = some (3#32, 5#32) := by decide

/-- 95_test_vectors 4.1 -/
theorem test_jmps_imm_not_taken :
    after 0x00000E04#32 (fun s => ((s.withPc 2#32).withLr 77#32).withSts 3#6) (fun s => (s.lr, s.pc)) =
      some (77#32, 3#32) := by decide

/-- 95_test_vectors 4.1 -/
theorem test_jmpi_returns :
    after 0x00000280#32 (fun s => ((s.withPc 7#32).withIntlr 2#32).withSts 0b100010#6) (fun s => (s.sts, s.pc)) =
      some (0b000010#6, 2#32) := by decide

/-- 95_test_vectors 4.1 -/
theorem test_jmpi_flag_clear :
    after 0x00000280#32 (fun s => (s.withPc 7#32).withIntlr 2#32) (fun s => s.pc) = some 8#32 := by decide

/-- 95_test_vectors 4.2 -/
theorem test_jmp_invalid_status :
    refusal 0x00001082#32 (·.withSts 6#6) = some .invalidConditionCode := by decide

/-- 95_test_vectors 5.1 -/
theorem test_glod_low_bits :
    after 0x007314E0#32 (fun s => (((two 5 0xFFFFF010#32 6 20#32 s).withGpr 7 0x00001006#32).memWrite 20#32
      0x44332211#32).memWrite 21#32 0x88776655#32) (fun s => s.sprite) =
      some (sprites [0x11#8, 0x22#8, 0x33#8, 0x44#8, 0x55#8, 0x66#8] 0x010) := by decide

/-- 95_test_vectors 5.1 -/
theorem test_glod_past_the_end :
    refusal 0x007314E0#32 (fun s => (two 5 0xFFE#32 6 20#32 s).withGpr 7 3#32) = some .graphicsAddressOverflow := by decide

/-- 43_graphics R225: the source is relative to the instruction, at assembly level. -/
theorem test_glod_imm :
    (match exec (.glodImm 0xFFF#12 0x3FF#10 1#12) ((State.reset.withPc 8#32).memWrite 7#32 0x44332211#32) with
      | .next t => some (t.sprite, t.pc)
      | _ => none) = some (sprites [0x11#8] 0xFFF, 9#32) := by decide

/-- 95_test_vectors 5.2 -/
theorem test_blitmem :
    after 0x000201E0#32 (two 0 0xFFFFF000#32 4 0x30101#32) (fun s => (s.blSrc, s.blDst, s.pc)) = some (0#12, 257#16, 1#32) := by decide

/-- 43_graphics R227 -/
theorem test_blitdims :
    after 0x00018E60#32 (·.withGpr 3 0x82#32) (fun s => (s.blW, s.blH, s.pc)) = some (2#7, 2#7, 1#32) := by decide

/-- 43_graphics R228 -/
theorem test_blitdims_imm :
    after 0x001042E0#32 id (fun s => (s.blW, s.blH, s.pc)) = some (16#7, 8#7, 1#32) := by decide

/-- 95_test_vectors 5.4 -/
theorem test_blit_low_bits :
    after 0x0004A360#32 (fun s => (blitter [0xCC#8, 0xAA#8] 0 0#12 0#16 2#7 1#7 (two 8 0xF6#32 9 0x1FF#32 s)).withFrame
      (sprites [0xF0#8, 0xF0#8] 0)) (fun s => s.frame) = some (sprites [0x3C#8, 0x5A#8] 0) := by decide

/-- 95_test_vectors 5.4 -/
theorem test_blit_strides :
    after 0x003FCFE0#32 (blitter [0x11#8, 0x22#8, 0x33#8, 0x44#8] 0 0#12 257#16 2#7 2#7) (fun s => s.frame) =
      some (sprites [0x11#8, 0x22#8] 257 ++ sprites [0x33#8, 0x44#8] 513) := by decide

/-- 95_test_vectors 5.4 -/
theorem test_blit_past_the_end :
    refusal 0x003FCFE0#32 (blitter [] 0 0#12 0xFFFF#16 2#7 1#7) = some .graphicsAddressOverflow := by decide

/-- 95_test_vectors 5.3: the two bytes of the common state under each operation. -/
theorem test_blit_operations :
    (List.range 16).map (fun k => (blitOp (BitVec.ofNat 4 k) 0xCC#8 0xF0#8, blitOp (BitVec.ofNat 4 k) 0xAA#8 0xF0#8)) =
    [(0x00#8, 0x00#8), (0xC0#8, 0xA0#8), (0x0C#8, 0x0A#8), (0xCC#8, 0xAA#8), (0x30#8, 0x50#8), (0xF0#8, 0xF0#8),
     (0x3C#8, 0x5A#8), (0xFC#8, 0xFA#8), (0x03#8, 0x05#8), (0xC3#8, 0xA5#8), (0x0F#8, 0x0F#8), (0xCF#8, 0xAF#8),
     (0x33#8, 0x55#8), (0xF3#8, 0xF5#8), (0x3F#8, 0x5F#8), (0xFF#8, 0xFF#8)] := by decide

/-! Interrupts, the key tape, the loader, the assembler. -/

/-- The state of the first row of 95_test_vectors section 6, with an event at the head of the tape. -/
def waiting (k : Key) (sts : BitVec 6) (s : State) : State :=
  (((s.withPc 2#32).withIhdlr 4#32).withSts sts).withKeyTape [some k]

/-- 95_test_vectors 6: the event is taken; no instruction runs in that step. -/
theorem test_key_taken :
    after 0x00000000#32 (waiting .downArrow 2#6)
      (fun s => (s.sts, s.memRead 0xFFFFFFFF#32, s.intlr, s.pc)) = some (0b100010#6, 1#32, 2#32, 4#32) := by decide

/-- 95_test_vectors 6: with the flag set the event is lost and nothing changes. -/
theorem test_key_lost :
    after 0x00000000#32 (waiting .enter 0b100000#6) (fun s => (s.sts, s.pc, s.halted, s.keyTape)) =
    some (0b100000#6, 2#32, false, []) := by decide

/-- 60_exceptions R252. -/
theorem test_key_codes :
    [Key.upArrow, .downArrow, .leftArrow, .rightArrow, .enter, .escape, .space].map Key.code =
    [0#4, 1#4, 2#4, 3#4, 4#4, 5#4, 6#4] := by decide

/-- 20_memory R75: the first word of program P1 in the file, and where it stands. -/
theorem test_load :
    (match loadBinary [0x20#8, 0x21#8, 0x80#8, 0x02#8, 0#8, 0#8, 0#8, 0#8] with
      | .next t => some (t.memRead 0#32, t.memRead 1#32, t.pc)
      | _ => none) = some (0x02802120#32, 0#32, 0#32) ∧
    (match loadBinary [0x20#8] with
      | .refused q => some q
      | _ => none) = some .fileLengthNotMultipleOfFour := by decide

/-- 10_state R40: a byte's colour where red is its three highest bits, then green, then blue, each with its least bit lowest:
`110 011 01`. The layout is this test's, `PixelLayout` is free. -/
theorem test_colour_of_pixel :
    colourOf ⟨![5, 6, 7, 2, 3, 4, 0, 1], ![6, 7, 3, 4, 5, 0, 1, 2], by decide, by decide⟩ 0b11001101#8 =
      { red := 0b110#3, green := 0b011#3, blue := 0b01#2 } := by decide

/-- 30_encoding R121: the digits of the three bases. -/
theorem test_digits :
    number 16 "1fF".toList = some 0x1FF ∧ number 10 "409".toList = some 409 ∧ number 2 "101".toList = some 5 ∧
    number 10 "1A".toList = none ∧ number 2 "2".toList = none ∧ number 16 "G".toList = none ∧ number 16 [] = none := by
  decide

/-- 95_test_vectors P1: the assembler gives the program's words. -/
theorem test_assemble_sum :
    assemble [" ADD R1 R0 0d5".toList, "LOOP ADD R2 R2 R1".toList, " SUB R1 R1 0d1 # count".toList, " CMP R1 R0".toList,
      " GTJMP 0sd-3".toList, " HALT".toList] =
    .ok [0x02802120#32, 0x00884020#32, 0x00842320#32, 0x000028A0#32, 0xFFFFF503#32, 0x00000000#32] := by decide

/-- The model's choice, log 25: lines without a mnemonic emit no word. -/
theorem test_assemble_bare_lines :
    assemble ["".toList, "# start".toList, "LOOP".toList, " \t # none".toList, " HALT".toList] = .ok [0#32] := by decide

/-- 95_test_vectors P2, P5 and 43_graphics R225: aliases, graphics operands, and the form with no word. -/
theorem test_assemble_forms :
    assemble [" PUSH LR".toList, " JMPS 0d3".toList, " GLOD R0 R1 R2".toList, " BLITDIMS 0d2 0d2".toList,
      " BLIT 0b0011 0xFF".toList, " MV IHDLR R1".toList] =
    .ok [0x00007E40#32, 0x00000E00#32, 0x002080E0#32, 0x00040AE0#32, 0x003FCFE0#32, 0x00076820#32] ∧
    assemble [" GLOD 0d0 0sd1 0d4".toList] = .error .unencodable := by decide

/-- `withFetchWord` makes the very next step run the word. -/
theorem test_withFetchWord :
    (match step ((waiting .space 0#6 State.reset).withFetchWord 32 0x00047020) with
      | .next t => some (r 3 t, t.pc, t.keyTape)
      | _ => none) = some (0xFFFFFFFF#32, 3#32, [some .space]) := by decide

/-! Witnesses: concrete states and operands that meet the hypotheses of the statement named. -/

theorem witness_ZeroWordIsHalt :
    (State.reset.memWrite 0#32 0#32).memRead (State.reset.memWrite 0#32 0#32).pc = 0#32 := by decide

theorem witness_HaltEndsTheRun :
    (State.reset.memWrite 0#32 0#32).memRead (State.reset.memWrite 0#32 0#32).pc = 0#32 := by decide

theorem witness_DecodeOfEncode :
    (Instr.pop .sts).wellFormed = true := by decide

theorem witness_EncodeOfDecode :
    decodeTableWord 32 0xFFFFF503 = some (.jmpImm .gt 0x3FFFFD#22) ∧ decode 0xFFFFF503#32 = .ok (.jmpImm .gt 0x3FFFFD#22) := ⟨by decide, rfl⟩

theorem witness_UndefinedWordsRefused :
    (field 0x000010A0#32 5 2 = 0b01#2 ∧ 32 < (field 0x000010A0#32 7 6).toNat) ∧
    (field 0x00000340#32 5 2 = 0b10#2 ∧ 5 < (field 0x00000340#32 7 3).toNat) ∧
    (field 0x00000300#32 5 2 = 0b00#2 ∧ 5 < (field 0x00000300#32 7 3).toNat) ∧
    (field 0x00000060#32 5 2 = 0b11#2 ∧ field 0x00000060#32 7 3 = 0#3) ∧
    (field 0x00000160#32 5 2 = 0b11#2 ∧ field 0x00000160#32 7 3 = 2#3) ∧
    (field 0x00000086#32 5 2 = 0b00#2 ∧ 1 ≤ (field 0x00000086#32 7 3).toNat ∧ (field 0x00000086#32 7 3).toNat ≤ 5 ∧
      (condField 0x00000086#32).toNat = 6) ∧
    (field 0x0000028D#32 5 2 = 0b00#2 ∧ 1 ≤ (field 0x0000028D#32 7 3).toNat ∧ (field 0x0000028D#32 7 3).toNat ≤ 5 ∧
      13 ≤ (condField 0x0000028D#32).toNat) ∧
    (field 0x01046022#32 5 2 ≠ 0b00#2 ∧ condField 0x01046022#32 ≠ 0#5) ∧
    (field 0x80000000#32 5 2 = 0b00#2 ∧ field 0x80000000#32 7 3 = 0#3 ∧ 0x80000000#32 ≠ 0#32) := by decide

/-- The last two clauses: a condition on an ALU, a Memory and a Graphics instruction and on `HALT`; an unused bit of `CMP`
(bit 23), of `LDR` register (bit 20), of `JMPI` and of `PUSH` (bit 15), of `BLIT` immediate (bit 22), of `HALT` (bit 31). -/
theorem witness_UndefinedWordsRefused_zeroBits :
    (selectRow 0x01046022#32 = .ok (.adduReg (.gpr 3) (.gpr 1) (.gpr 2)) ∧
      (Instr.adduReg (.gpr 3) (.gpr 1) (.gpr 2)).usesCond = false ∧ condField 0x01046022#32 ≠ 0#5) ∧
    (selectRow 0x00007E41#32 = .ok (.push .lr) ∧ (Instr.push .lr).usesCond = false ∧ condField 0x00007E41#32 ≠ 0#5) ∧
    (selectRow 0x00381BFF#32 = .ok (.blitImm 6#4 0xE0#8) ∧ (Instr.blitImm 6#4 0xE0#8).usesCond = false ∧
      condField 0x00381BFF#32 ≠ 0#5) ∧
    (selectRow 0x00000001#32 = .ok .halt ∧ Instr.halt.usesCond = false ∧ condField 0x00000001#32 ≠ 0#5) ∧
    (selectRow 0x008828A0#32 = .ok (.cmp (.gpr 1) (.gpr 2)) ∧
      0x008828A0#32 &&& (Instr.cmp (.gpr 1) (.gpr 2)).unusedBits ≠ 0#32) ∧
    (selectRow 0x00110440#32 = .ok (.ldrReg (.gpr 1) (.gpr 2)) ∧
      0x00110440#32 &&& (Instr.ldrReg (.gpr 1) (.gpr 2)).unusedBits ≠ 0#32) ∧
    (selectRow 0x00008282#32 = .ok (.jmpi .e) ∧ 0x00008282#32 &&& (Instr.jmpi .e).unusedBits ≠ 0#32) ∧
    (selectRow 0x0000FE40#32 = .ok (.push .lr) ∧ 0x0000FE40#32 &&& (Instr.push .lr).unusedBits ≠ 0#32) ∧
    (selectRow 0x00781BE0#32 = .ok (.blitImm 6#4 0xE0#8) ∧
      0x00781BE0#32 &&& (Instr.blitImm 6#4 0xE0#8).unusedBits ≠ 0#32) ∧
    (selectRow 0x80000000#32 = .ok .halt ∧ 0x80000000#32 &&& Instr.halt.unusedBits ≠ 0#32) := by
  refine ⟨⟨rfl, rfl, ?_⟩, ⟨rfl, rfl, ?_⟩, ⟨rfl, rfl, ?_⟩, ⟨rfl, rfl, ?_⟩, ⟨rfl, ?_⟩, ⟨rfl, ?_⟩, ⟨rfl, ?_⟩, ⟨rfl, ?_⟩, ⟨rfl, ?_⟩,
    ⟨rfl, ?_⟩⟩ <;> decide

/-- The reset state with `NOT R3 R1` at `pc` and a tape. -/
def taped (tape : List (Option Key)) : State := start 0x00047020#32 (·.withKeyTape tape)

theorem witness_StepRunsDecodedInstruction :
    (taped []).halted = false ∧ decode ((taped []).memRead (taped []).pc) = .ok (.notReg (.gpr 3) (.gpr 1)) ∧
    (Instr.notReg (.gpr 3) (.gpr 1)).wellFormed = true ∧ (taped []).keyTape = [] ∧
    (taped [none]).keyTape = none :: [] ∧ (taped [some .enter, none]).keyTape = some .enter :: [none] := ⟨rfl, rfl, rfl, rfl, rfl, rfl⟩

theorem witness_UndecodableWordHasNoStep :
    (start 0x00000060#32 id).halted = false ∧ nextKey (start 0x00000060#32 id) = none ∧
    decode ((start 0x00000060#32 id).memRead (start 0x00000060#32 id).pc) = .error .reservedEncoding := ⟨rfl, rfl, rfl⟩

theorem witness_HaltedMachineKeepsState :
    (State.reset.withHalted true).halted = true := by decide

theorem witness_StepKeepsMemoriesCanonical :
    (start 0x00000000#32 id).memoriesWf = true ∧
    step (start 0x00000000#32 id) = .next ((start 0x00000000#32 id).withHalted true) := ⟨by decide, rfl⟩

theorem witness_LoaderPlacesFileWords :
    (([] : List Byte).length % 4 = 0 ∧ ([] : List Byte).length ≤ 2 ^ 34) ∧
    ((List.replicate (2 ^ 34) 0#8).length % 4 = 0 ∧ (List.replicate (2 ^ 34) 0#8).length ≤ 2 ^ 34 ∧
      4 * (2 ^ 32 - 1) + 3 < (List.replicate (2 ^ 34) 0#8).length) ∧
    [1#8, 2#8, 3#8].length % 4 ≠ 0 := by
  rw [List.length_replicate]
  decide

theorem witness_BinaryOfWordsLoadsBack :
    (List.replicate (2 ^ 32) 0#32).length ≤ 2 ^ 32 ∧ 2 ^ 32 - 1 < (List.replicate (2 ^ 32) 0#32).length := by
  rw [List.length_replicate]
  decide

theorem witness_NonJumpCannotWritePc :
    (Instr.mv .pc (.gpr 0)).dest = some .pc ∧ (Instr.divuReg .pc (.gpr 0) (.gpr 1)).dest = some .pc ∧
    (Instr.lsrImm .pc 32#14).dest = some .pc := by decide

theorem witness_AdditionsWriteTheSum :
    Reg.gpr 25 ≠ .pc ∧ Reg.sts ≠ .pc ∧ Reg.sp ≠ .pc := by decide

theorem witness_SubtractionsWriteTheDifference :
    Reg.gpr 25 ≠ .pc ∧ Reg.sts ≠ .pc ∧ Reg.sp ≠ .pc := by decide

theorem witness_MultiplicationsWriteTheLowProduct :
    Reg.gpr 25 ≠ .pc ∧ Reg.sts ≠ .pc ∧ Reg.sp ≠ .pc := by decide

theorem witness_MvCopiesTheSource :
    Reg.gpr 25 ≠ .pc ∧ Reg.sts ≠ .pc ∧ Reg.sp ≠ .pc := by decide

/-- One destination or more for each case of the statement. -/
theorem witness_PopLoadsFromTheStack :
    (Reg.gpr 25 ≠ .pc ∧ Reg.lr ≠ .pc) ∧ Reg.sts ≠ .pc ∧ Reg.sp ≠ .pc := by decide

theorem witness_ImmediateLogicWritesTheResult :
    Reg.sts ≠ .pc ∧ sext32 0x1FF#9 = 0xFFFFFFFF#32 := by decide

theorem witness_LdrImmLoadsRelativeToTheNextWord :
    Reg.lr ≠ .pc ∧ eaImm State.reset 0x1FFFF#17 = State.reset.pc := by decide

theorem witness_UnsignedDivisionsRoundDown :
    Reg.gpr 3 ≠ .pc ∧ readReg (two 1 0x80000000#32 2 0xFFFFFFFF#32 State.reset) (.gpr 2) ≠ 0#32 ∧ (1#9 : BitVec 9) ≠ 0#9 ∧ (0x1FF#9 : BitVec 9) ≠ 0#9 := by decide

theorem witness_SignedDivisionsTruncate :
    Reg.gpr 3 ≠ .pc ∧ readReg (two 1 0x80000000#32 2 0xFFFFFFFF#32 State.reset) (.gpr 2) ≠ 0#32 ∧
    ¬ (readReg (two 1 0x80000000#32 2 0xFFFFFFFF#32 State.reset) (.gpr 2) = 0x80000000#32 ∧ readReg (two 1 0x80000000#32 2 0xFFFFFFFF#32 State.reset) (.gpr 2) = 0xFFFFFFFF#32) ∧
    (0x1FE#9 : BitVec 9) ≠ 0#9 ∧ ¬ (readReg (two 1 0x80000000#32 2 0xFFFFFFFF#32 State.reset) (.gpr 1) = 0x80000000#32 ∧ (0x1FE#9 : BitVec 9) = 0x1FF#9) := by decide

theorem witness_DivisionCornersRefused :
    readReg State.reset (.gpr 2) = 0#32 ∧ readReg (two 1 0x80000000#32 2 0xFFFFFFFF#32 State.reset) (.gpr 1) = 0x80000000#32 ∧ readReg (two 1 0x80000000#32 2 0xFFFFFFFF#32 State.reset) (.gpr 2) = 0xFFFFFFFF#32 := by decide

theorem witness_LeftShiftsMoveTheBits :
    Reg.gpr 4 ≠ .pc ∧ (readReg State.reset (.gpr 7)).toNat < 32 ∧ (readReg (State.reset.withGpr 7 31#32) (.gpr 7)).toNat < 32 ∧
    (0#14 : BitVec 14).toNat < 32 ∧ (31#14 : BitVec 14).toNat < 32 := by decide

theorem witness_LogicalRightShiftsMoveTheBits :
    Reg.gpr 4 ≠ .pc ∧ (readReg State.reset (.gpr 7)).toNat < 32 ∧ (readReg (State.reset.withGpr 7 31#32) (.gpr 7)).toNat < 32 ∧
    (0#14 : BitVec 14).toNat < 32 ∧ (31#14 : BitVec 14).toNat < 32 := by decide

theorem witness_ArithmeticRightShiftsKeepTheSign :
    Reg.gpr 4 ≠ .pc ∧ (readReg State.reset (.gpr 7)).toNat < 32 ∧ (readReg (State.reset.withGpr 7 31#32) (.gpr 7)).toNat < 32 ∧
    (0#14 : BitVec 14).toNat < 32 ∧ (31#14 : BitVec 14).toNat < 32 := by decide

theorem witness_ShiftsOutOfRangeRefused :
    32 ≤ (readReg (State.reset.withGpr 7 32#32) (.gpr 7)).toNat ∧ 32 ≤ (32#14 : BitVec 14).toNat ∧
    32 ≤ (0x3FFF#14 : BitVec 14).toNat := by decide

theorem witness_RegisterLogicWritesTheResult :
    Reg.gpr 3 ≠ .pc ∧
    (readReg (two 1 0x0000FF0F#32 2 0x00000FF0#32 State.reset) (.gpr 1) = 0x0000FF0F#32 ∧
      readReg (two 1 0x0000FF0F#32 2 0x00000FF0#32 State.reset) (.gpr 2) = 0x00000FF0#32) ∧
    (readReg (two 1 0x0000FF00#32 2 0x000000FF#32 State.reset) (.gpr 1) = 0x0000FF00#32 ∧
      readReg (two 1 0x0000FF00#32 2 0x000000FF#32 State.reset) (.gpr 2) = 0x000000FF#32) := by decide

theorem witness_NotInvertsEveryBit :
    Reg.gpr 3 ≠ .pc ∧ Reg.gpr 3 ≠ .sts ∧ readReg State.reset (.gpr 1) = 0#32 ∧
    readReg (State.reset.withGpr 1 0x0000FFFF#32) (.gpr 1) = 0x0000FFFF#32 := by decide

theorem witness_LdrRegLoadsTheAddressedWord :
    Reg.gpr 1 ≠ .pc ∧ readReg (State.reset.withGpr 2 0xFFFFFFFF#32) (.gpr 2) = codeAddress ∧
    readReg ((State.reset.withGpr 2 100#32).memWrite 100#32 0xDEADBEEF#32) (.gpr 2) = 100#32 ∧
    ((State.reset.withGpr 2 100#32).memWrite 100#32 0xDEADBEEF#32).memRead 100#32 = 0xDEADBEEF#32 := by decide

theorem witness_StrRegStoresAtTheAddress :
    readReg (two 1 49#32 2 1#32 State.reset) (.gpr 2) = (two 1 49#32 2 1#32 State.reset).pc + 1 ∧
    readReg (two 1 49#32 2 32#32 State.reset) (.gpr 1) = 49#32 ∧ readReg (two 1 49#32 2 32#32 State.reset) (.gpr 2) = 32#32 := by decide

theorem witness_CondMatchRelation :
    Cond.pos ≠ .ns ∧ InvalidCode 6#5 ∧ InvalidCode 13#5 ∧ InvalidCode 31#5 := by unfold InvalidCode; decide

theorem witness_JumpsGoWhereTheConditionSays :
    condMatch .e (State.reset.withSts 2#6).cc = some true ∧ condMatch .e (State.reset.withSts 3#6).cc = some false ∧
    condMatch .ns (State.reset.withSts 6#6).cc = some true := by decide

theorem witness_SubroutineJumpsLink :
    condMatch .e (State.reset.withSts 2#6).cc = some true ∧ condMatch .e (State.reset.withSts 3#6).cc = some false ∧
    condMatch .ns (State.reset.withSts 6#6).cc = some true := by decide

theorem witness_JmpiReturnsFromTheInterrupt :
    condMatch .e (State.reset.withSts 2#6).cc = some true ∧ condMatch .e (State.reset.withSts 3#6).cc = some false ∧
    condMatch .ns (State.reset.withSts 6#6).cc = some true := by decide

theorem witness_InvalidStatusCodeRefusesJumps :
    Cond.e ≠ .ns ∧ InvalidCode (State.reset.withSts 6#6).cc ∧ InvalidCode (State.reset.withSts 13#6).cc := by unfold InvalidCode; decide

theorem witness_GlodRegCopiesTheSprite :
    (readReg (two 5 0xFFE#32 7 2#32 State.reset) (.gpr 5)).toNat % 4096 +
      (readReg (two 5 0xFFE#32 7 2#32 State.reset) (.gpr 7)).toNat % 4096 ≤ 4096 := by decide

theorem witness_GlodImmCopiesTheSprite :
    (0xFFF#12 : BitVec 12).toNat + (1#12 : BitVec 12).toNat ≤ 4096 := by decide

theorem witness_GlodPastTheEndRefused :
    4096 < (readReg (two 5 0xFFE#32 7 3#32 State.reset) (.gpr 5)).toNat % 4096 +
      (readReg (two 5 0xFFE#32 7 3#32 State.reset) (.gpr 7)).toNat % 4096 ∧
    4096 < (0xFFF#12 : BitVec 12).toNat + (2#12 : BitVec 12).toNat := by decide

theorem witness_BlitWritesTheRectangle :
    BlitInRange (State.reset.withBlitDims 0#7 127#7) ∧
    BlitInRange (blitter [] 0 0xFFE#12 0xFFFE#16 2#7 1#7 State.reset) := by unfold BlitInRange; decide

theorem witness_BlitPastTheEndRefused :
    ¬ BlitInRange (blitter [] 0 0#12 0xFFFF#16 2#7 1#7 State.reset) ∧
    ¬ BlitInRange (blitter [] 0 0xFFF#12 0#16 2#7 1#7 State.reset) ∧
    ¬ BlitInRange (blitter [] 0 0#12 0xFF00#16 1#7 2#7 State.reset) := by unfold BlitInRange; decide

theorem witness_KeyEventTakenOrDropped :
    ((State.reset.withIhdlr 4#32).halted = false ∧ (State.reset.withIhdlr 4#32).iflag = false ∧
      (State.reset.withIhdlr 4#32).ihdlr ≠ 0xFFFFFFFF#32) ∧
    (State.reset.withHalted true).halted = true ∧ (State.reset.withSts 0b100000#6).iflag = true ∧
    State.reset.ihdlr = 0xFFFFFFFF#32 := by decide

theorem witness_InterruptThenReturnResumes :
    (State.reset.withIhdlr 4#32).takesKey = true := by decide

theorem witness_MemoriesWrittenOnlyByTheirInstructions :
    exec .halt State.reset = .next (State.reset.withHalted true) ∧ Instr.halt.stores = false ∧
    Instr.halt.loadsSprite = false ∧ Instr.halt.blits = false ∧ (∀ ra rb, Instr.halt ≠ .blitmem ra rb) ∧
    Instr.halt.setsBlitDims = false := ⟨rfl, rfl, rfl, rfl, nofun, rfl⟩

theorem witness_RegistersWrittenOnlyAsNamed :
    exec (.mv (.gpr 1) .lr) State.reset = .next (State.reset.withGpr 1 0#32).advance ∧
    Reg.sp ≠ .pc ∧ Reg.sp ≠ .sts ∧ (Instr.mv (.gpr 1) .lr).dest ≠ some .sp ∧
    ¬ (Reg.sp = .sp ∧ (Instr.mv (.gpr 1) .lr).usesStack = true) ∧ ¬ (Reg.sp = .lr ∧ (Instr.mv (.gpr 1) .lr).links = true) := ⟨rfl, by decide⟩

theorem witness_StatusWrittenOnlyByItsWriters :
    exec (.jmpi .ns) (State.reset.withSts 0b000010#6) = .next (State.reset.withSts 0b000010#6).advance ∧
    (Instr.jmpi .ns).dest ≠ some .sts ∧ (Instr.jmpi .ns).isArith = false ∧ (∀ ra rb, Instr.jmpi .ns ≠ .cmp ra rb) ∧
    exec (.mv .lr .sts) (State.reset.withSts 0b100010#6) =
      .next ((State.reset.withSts 0b100010#6).withLr 34#32).advance ∧
    (∀ c, Instr.mv .lr .sts ≠ .jmpi c) ∧ ((State.reset.withSts 0b100010#6).withLr 34#32).advance.iflag = true := ⟨rfl, nofun, rfl, nofun, rfl, nofun, rfl⟩

theorem witness_OnlyHaltEndsTheRun :
    exec .halt State.reset = .next (State.reset.withHalted true) ∧ State.reset.halted = false := ⟨rfl, rfl⟩

end Sys2Proof.Machine.Tests
end

section
/-!
PROOFS. The two's complement value of a sign-extended immediate (00_scope R9, 30_encoding R98).
-/

namespace Sys2Proof.Machine

/-- 00_scope R9: at every width up to 32, `sext_32` keeps the two's complement value. -/
@[simp] theorem toInt_sext32 {n : Nat} (hn : n ≤ 32) (v : BitVec n) : (sext32 v).toInt = v.toInt :=
  BitVec.toInt_signExtend_of_le hn

/-- Settles O18: each of the five immediate widths is at most 32. -/
theorem immediatesSignExtended : Obligations.ImmediatesSignExtended :=
  ⟨toInt_sext32 (by decide), toInt_sext32 (by decide), toInt_sext32 (by decide), toInt_sext32 (by decide),
    toInt_sext32 (by decide)⟩

end Sys2Proof.Machine
end

section
/-!
PROOFS. Registers: what each reads and takes (10_state R27, R28), the end of an instruction that writes one result, and the
instructions that are nothing more: `MV`, the register logic, `NOT` and `LDR.r`, with their encodings and their assembly.
-/

namespace Sys2Proof.Machine

/-- Settles O16: the reads by definition, the write by the rule of `readReg` after `writeReg`. -/
theorem registerReadAndWrite : Obligations.RegisterReadAndWrite :=
  ⟨fun _ _ => rfl, fun _ => ⟨rfl, rfl, rfl, rfl, rfl, rfl⟩, readReg_writeReg⟩

/-! A result written to a register. -/

/-- Writing a register and advancing writes nothing but that register and `PC`. -/
theorem onlyRegsWritten_writeReg (s : State) (ra : Reg) (v : Word) :
    OnlyRegsWritten [ra] s (writeReg s ra v).advance := by
  refine ⟨fun r hpc hr => ?_, fun a => ?_, fun a => ?_, fun a => ?_, ?_, ?_⟩
  · rw [readReg_advance _ hpc, readReg_writeReg_other _ _ (List.ne_of_not_mem_cons hr)]
  · simp [State.mainByte]
  · simp [State.spriteByte]
  · simp [State.frameByte]
  · simp [BlitterKept]
  · simp [ControlKept]

/-- 10_state R28: with a destination other than R28, writing back does nothing but write the result. -/
theorem writeBack_registerResult (s : State) {ra : Reg} (v : Word) (h : ra ≠ .pc) :
    ∃ t, writeBack s ra v id = .next t ∧ RegisterResult s t ra v := by
  refine ⟨_, writeBack_eq s v id h, ?_, ?_, ?_, onlyRegsWritten_writeReg s ra v⟩
  · rw [readReg_advance _ h, id, readReg_writeReg, if_pos rfl]
  · rw [State.advance_pc, id, writeReg_pc s v h]
  · simp

/-- A destination other than R29 takes the whole result. -/
theorem RegisterResult.readReg_eq {s t : State} {ra : Reg} {v : Word} (h : RegisterResult s t ra v) (hra : ra ≠ .sts) :
    readReg t ra = v := by
  obtain ⟨hv, _⟩ := h
  rwa [if_neg hra] at hv

/-- Settles O26: `MV` is a result written back and nothing else. -/
theorem mvCopiesTheSource : Obligations.MvCopiesTheSource :=
  fun s _ _ hra => writeBack_registerResult s _ hra

/-! Register logic. -/

/-- Settles O31: the three instructions write one result; with equal sources `x AND x = x` and `x XOR x = 0`. -/
theorem registerLogicWritesTheResult : Obligations.RegisterLogicWritesTheResult := by
  refine ⟨fun ra rb rc => ⟨assembleOperation_ok rfl rfl, assembleOperation_ok rfl rfl, assembleOperation_ok rfl rfl,
    rfl, rfl, rfl⟩, fun s ra rb rc hra => ⟨?_, ?_, ?_⟩, rfl, rfl, rfl, fun s h1 h2 => ⟨?_, ?_⟩, fun s h1 h2 => ?_⟩
  · obtain ⟨t, ht, hr⟩ := writeBack_registerResult s (readReg s rb &&& readReg s rc) hra
    exact ⟨t, ht, hr, fun e => by rwa [← e, BitVec.and_self] at hr⟩
  · exact writeBack_registerResult s (readReg s rb ||| readReg s rc) hra
  · obtain ⟨t, ht, hr⟩ := writeBack_registerResult s (readReg s rb ^^^ readReg s rc) hra
    exact ⟨t, ht, hr, fun e => by rwa [← e, BitVec.xor_self] at hr⟩
  · obtain ⟨t, ht, hr⟩ := writeBack_registerResult s (readReg s (.gpr 1) &&& readReg s (.gpr 2)) (ra := .gpr 3) nofun
    exact ⟨t, ht, by rw [hr.readReg_eq nofun, h1, h2]; rfl⟩
  · obtain ⟨t, ht, hr⟩ := writeBack_registerResult s (readReg s (.gpr 1) ^^^ readReg s (.gpr 2)) (ra := .gpr 3) nofun
    exact ⟨t, ht, by rw [hr.readReg_eq nofun, h1, h2]; rfl⟩
  · obtain ⟨t, ht, hr⟩ := writeBack_registerResult s (readReg s (.gpr 1) ||| readReg s (.gpr 2)) (ra := .gpr 3) nofun
    exact ⟨t, ht, by rw [hr.readReg_eq nofun, h1, h2]; rfl⟩

/-- R29 reads as zero above bit 5 (10_state R30). -/
theorem getLsbD_readReg_sts (s : State) {j : Nat} (h : 6 ≤ j) : (readReg s .sts).getLsbD j = false := by
  simp [readReg, BitVec.getLsbD_of_ge s.sts j h]

/-- Settles O33: `NOT` writes one result, all of whose bits are the source's inverted. -/
theorem notInvertsEveryBit : Obligations.NotInvertsEveryBit := by
  refine ⟨fun ra rb => ⟨assembleOperation_ok rfl rfl, rfl, ?_⟩, fun s ra rb hra => ?_, rfl, fun s h1 => ?_⟩
  · obtain ⟨_, _, _, _, _, hunused⟩ := formatARR_fields 32#6 ra rb
    exact hunused
  · obtain ⟨t, ht, hr⟩ := writeBack_registerResult s (~~~ readReg s rb) hra
    refine ⟨t, ht, hr, fun hsts hz => ?_, fun hsts hrb j hj hj32 => ?_⟩
    · rw [hr.readReg_eq hsts, hz]
      rfl
    · rw [hr.readReg_eq hsts, hrb, BitVec.getLsbD_not, getLsbD_readReg_sts s hj]
      simp [hj32]
  · obtain ⟨t, ht, hr⟩ := writeBack_registerResult s (~~~ readReg s (.gpr 1)) (ra := .gpr 3) nofun
    exact ⟨t, ht, by rw [hr.readReg_eq nofun, h1]; rfl⟩

/-! Load and store with a register address. -/

/-- Settles O34: `LDR.r` writes one result, the word at the address the old register holds. -/
theorem ldrRegLoadsTheAddressedWord : Obligations.LdrRegLoadsTheAddressedWord := by
  refine ⟨fun ra rb => ?_, fun s ra rb hra => ?_, rfl, fun s h2 hmem => ?_⟩
  · obtain ⟨_, _, _, hra, hrb, hunused⟩ := formatMRR_fields 0#3 ra rb
    exact ⟨assembleOperation_ok rfl rfl, rfl, hra, hrb, hunused⟩
  · obtain ⟨t, ht, hr⟩ := writeBack_registerResult s (s.memRead (readReg s rb)) hra
    exact ⟨t, ht, hr, fun e => e ▸ hr, by rintro rfl; exact hr⟩
  · obtain ⟨t, ht, hr⟩ := writeBack_registerResult s (s.memRead (readReg s (.gpr 2))) (ra := .gpr 1) nofun
    exact ⟨t, ht, by rw [hr.readReg_eq nofun, h2, hmem]⟩

/-- A store followed by the advance of `PC` writes the one word and nothing else. -/
theorem onlyWordWritten_memWrite (s : State) (addr v : Word) :
    OnlyWordWritten [] addr s (s.memWrite addr v).advance := by
  refine ⟨fun r hpc _ => ?_, fun a ha => ?_, fun _ => rfl, fun _ => rfl, ⟨rfl, rfl, rfl, rfl⟩, ⟨rfl, rfl⟩, rfl⟩
  · rw [readReg_advance _ hpc, readReg_memWrite]
  · exact (s.mainByte_memWrite addr v a).trans (if_neg ha)

/-- Settles O36: `STR.r` is one store, which the next fetch sees where the address is the next instruction's. -/
theorem strRegStoresAtTheAddress : Obligations.StrRegStoresAtTheAddress := by
  refine ⟨fun ra rb => ?_, fun s ra rb => ?_, rfl, fun s h1 h2 => ?_⟩
  · obtain ⟨_, _, _, _, _, hunused⟩ := formatMRR_fields 2#3 ra rb
    exact ⟨assembleOperation_ok rfl rfl, rfl, hunused⟩
  · have stored : ((s.memWrite (readReg s rb) (readReg s ra)).advance).memRead (readReg s rb) = readReg s ra :=
      s.memRead_memWrite_same _ _
    refine ⟨_, rfl, stored, onlyWordWritten_memWrite s _ _, rfl, ?_, fun hnext => ?_⟩
    · rintro rfl
      exact stored
    · rw [fetch, State.advance_pc, State.memWrite_pc, ← hnext]
      exact stored
  · refine ⟨_, rfl, ?_⟩
    rw [← h1, ← h2]
    exact s.memRead_memWrite_same _ _

/-! R28 as the destination. -/

/-- With destination R28 an instruction is refused as such, unless its operands are refused before (10_state R28). -/
theorem writeBackOr_pc (s : State) (e : Except Refusal Word) (after : State → State) :
    ∃ r, writeBackOr s .pc e after = .refused r ∧ (r = .pcAsDestination ∨ e = .error r) := by
  cases e with
  | ok v => exact ⟨_, rfl, .inl rfl⟩
  | error r => exact ⟨r, rfl, .inr rfl⟩

/-- `udiv` is refused for a zero divisor alone (40_alu R167). -/
theorem udiv_error {a b : Word} {r : Refusal} (h : udiv a b = .error r) : r = .divisionByZero := by
  unfold udiv at h
  split at h <;> cases h
  rfl

/-- `sdiv` is refused for a zero divisor and for `-2^31 / -1` alone (40_alu R167). -/
theorem sdiv_error {a b : Word} {r : Refusal} (h : sdiv a b = .error r) :
    r = .divisionByZero ∨ r = .signedDivisionOverflow := by
  unfold sdiv at h
  split at h
  · cases h; exact .inl rfl
  · split at h <;> cases h
    exact .inr rfl

/-- A shift is refused for its amount alone (40_alu R151). -/
theorem shift_error {kind : Config.ShiftKind} {v n : Word} {r : Refusal} (h : shift kind v n = .error r) :
    r = .shiftAmountOutOfRange := by
  unfold shift at h
  split at h <;> cases h
  rfl

/-- How an instruction with a destination ends: the divides and shifts may be refused for their operands, every other one
writes a result back whatever its operands are (40_alu R151, R167, 10_state R28). -/
theorem exec_of_dest {i : Instr} {ra : Reg} (s : State) (hd : i.dest = some ra) :
    (∃ v after, exec i s = writeBack s ra v after) ∨
    (i.isDivide = true ∧ ∃ a b, exec i s = arith s ra (udiv a b) ∨ exec i s = arith s ra (sdiv a b)) ∨
    (i.isShift = true ∧ ∃ kind n, exec i s = shiftDest s kind ra n) := by
  cases i with
  | divuReg | divuImm => cases hd; exact .inr (.inl ⟨rfl, _, _, .inl rfl⟩)
  | divsReg | divsImm => cases hd; exact .inr (.inl ⟨rfl, _, _, .inr rfl⟩)
  | aslReg | asrReg | aslImm | asrImm | lslReg | lslImm | lsrReg | lsrImm =>
    cases hd; exact .inr (.inr ⟨rfl, _, _, rfl⟩)
  | _ => cases hd <;> (dsimp only [exec]; exact .inl ⟨_, _, rfl⟩)

/-- Settles O17, by how an instruction with a destination ends. -/
theorem nonJumpCannotWritePc : Obligations.NonJumpCannotWritePc := by
  intro i s hd
  rcases exec_of_dest s hd with ⟨v, after, h⟩ | ⟨hdiv, a, b, h | h⟩ | ⟨hshift, kind, n, h⟩ <;> rw [h]
  · exact ⟨_, rfl, .inl rfl⟩
  · obtain ⟨r, hr, hwhy⟩ := writeBackOr_pc s (udiv a b) State.drawCC
    exact ⟨r, hr, hwhy.imp_right fun e => .inl ⟨hdiv, .inl (udiv_error e)⟩⟩
  · obtain ⟨r, hr, hwhy⟩ := writeBackOr_pc s (sdiv a b) State.drawCC
    exact ⟨r, hr, hwhy.imp_right fun e => .inl ⟨hdiv, sdiv_error e⟩⟩
  · obtain ⟨r, hr, hwhy⟩ := writeBackOr_pc s (shift kind (readReg s .pc) n) id
    exact ⟨r, hr, hwhy.imp_right fun e => .inr ⟨hshift, shift_error e⟩⟩

end Sys2Proof.Machine
end

section
/-!
PROOFS. What every instruction and every step leaves as it is: the canonical form of the memories, the memories themselves,
the registers, the status, the halt bit and the model's own fields (10_state R21..R44). Each is a case split over the ways an
instruction ends (`Ends`), the ends that write the thing named first and all the others together.
-/

namespace Sys2Proof.Machine

variable {i : Instr} {s t : State}

/-! The return from an interrupt writes `STS.IF` and `PC` alone. -/

@[simp] theorem returnFromInterrupt_main (s : State) : (returnFromInterrupt s).main = s.main := rfl
@[simp] theorem returnFromInterrupt_sprite (s : State) : (returnFromInterrupt s).sprite = s.sprite := rfl
@[simp] theorem returnFromInterrupt_frame (s : State) : (returnFromInterrupt s).frame = s.frame := rfl
@[simp] theorem returnFromInterrupt_blSrc (s : State) : (returnFromInterrupt s).blSrc = s.blSrc := rfl
@[simp] theorem returnFromInterrupt_blDst (s : State) : (returnFromInterrupt s).blDst = s.blDst := rfl
@[simp] theorem returnFromInterrupt_blW (s : State) : (returnFromInterrupt s).blW = s.blW := rfl
@[simp] theorem returnFromInterrupt_blH (s : State) : (returnFromInterrupt s).blH = s.blH := rfl
@[simp] theorem returnFromInterrupt_halted (s : State) : (returnFromInterrupt s).halted = s.halted := rfl
@[simp] theorem returnFromInterrupt_keyTape (s : State) : (returnFromInterrupt s).keyTape = s.keyTape := rfl
@[simp] theorem returnFromInterrupt_freeDraws (s : State) : (returnFromInterrupt s).freeDraws = s.freeDraws := rfl
@[simp] theorem returnFromInterrupt_cc (s : State) : (returnFromInterrupt s).cc = s.cc := s.setIF_cc false
@[simp] theorem returnFromInterrupt_iflag (s : State) : (returnFromInterrupt s).iflag = false := s.setIF_iflag false

theorem readReg_returnFromInterrupt (s : State) {r : Reg} (hpc : r ≠ .pc) (hsts : r ≠ .sts) :
    readReg (returnFromInterrupt s) r = readReg s r := by
  rw [returnFromInterrupt, readReg_withPc _ _ hpc, readReg_setIF _ _ hsts]

/-! The canonical form. -/

theorem memoriesWf_iff : s.memoriesWf = true ↔
    Memory.wf mainSize s.main = true ∧ Memory.wf spriteSize s.sprite = true ∧ Memory.wf frameSize s.frame = true := by
  simp [State.memoriesWf, and_assoc]

/-- Every way an instruction ends keeps the memories canonical (10_state R37..R39). -/
theorem Ends.memoriesWf (e : Ends i s t) (h : s.memoriesWf = true) : t.memoriesWf = true := by
  obtain ⟨hmain, hsprite, hframe⟩ := memoriesWf_iff.1 h
  cases e with
  | store a v => exact memoriesWf_iff.2 ⟨wf_writeWord a v hmain, hsprite, hframe⟩
  | push ra p a v => exact memoriesWf_iff.2 ⟨wf_writeWord a v hmain, hsprite, hframe⟩
  | sprite m _ dest src n hm =>
    obtain ⟨_, _, hwf⟩ := spriteLoad_ok hm
    exact memoriesWf_iff.2 ⟨hmain, hwf hsprite, hframe⟩
  | frame m _ bop mask n hm =>
    obtain ⟨_, _, _, hwf⟩ := blitRows_ok hm
    exact memoriesWf_iff.2 ⟨hmain, hsprite, hwf hframe⟩
  | _ => simpa [memoriesWf_iff] using ⟨hmain, hsprite, hframe⟩

/-- A key event keeps the memories canonical: it writes the code word or nothing (60_exceptions R254, R255). -/
theorem keyEvent_memoriesWf (k : Key) (h : s.memoriesWf = true) : (keyEvent k s).memoriesWf = true := by
  cases hk : s.takesKey with
  | false => rwa [keyEvent_dropped k hk]
  | true =>
    rw [keyEvent_taken k hk]
    obtain ⟨hmain, hsprite, hframe⟩ := memoriesWf_iff.1 h
    exact memoriesWf_iff.2 ⟨wf_writeWord _ _ hmain, hsprite, hframe⟩

/-- Moving the key tape on leaves the memories alone. -/
@[simp] theorem dropTape_memoriesWf (s : State) : (dropTape s).memoriesWf = s.memoriesWf := rfl

/-- Settles O12, by what a step can be: none, a key event, or an instruction. -/
theorem stepKeepsMemoriesCanonical : Obligations.StepKeepsMemoriesCanonical := by
  intro s t hs hstep
  have hdrop : (dropTape s).memoriesWf = true := (dropTape_memoriesWf s).trans hs
  rcases step_next hstep with ⟨_, rfl⟩ | ⟨_, k, _, rfl⟩ | ⟨_, _, i, _, hexec⟩
  · exact hs
  · exact keyEvent_memoriesWf k hdrop
  · exact (exec_ends hexec).memoriesWf hdrop

/-! The memories and the Blitter's registers. -/

/-- Only a store and `PUSH` write main memory (10_state R37). -/
theorem Ends.main_eq (e : Ends i s t) (h : i.stores = false) : t.main = s.main := by
  cases e with
  | store _ _ hi => simp [h] at hi
  | push _ _ _ _ hi => subst hi; simp [Instr.stores] at h
  | _ => simp

/-- Only `GLOD` writes the sprite library (10_state R39). -/
theorem Ends.sprite_eq (e : Ends i s t) (h : i.loadsSprite = false) : t.sprite = s.sprite := by
  cases e with
  | sprite _ hi => simp [h] at hi
  | _ => simp

/-- Only `BLIT` writes the frame buffer (10_state R38). -/
theorem Ends.frame_eq (e : Ends i s t) (h : i.blits = false) : t.frame = s.frame := by
  cases e with
  | frame _ hi => simp [h] at hi
  | _ => simp

/-- Only `BLITMEM` writes the Blitter's addresses (10_state R36). -/
theorem Ends.blitMem_eq (e : Ends i s t) (h : ∀ ra rb, i ≠ .blitmem ra rb) : t.blSrc = s.blSrc ∧ t.blDst = s.blDst := by
  cases e with
  | blitMem ra rb _ _ hi => exact absurd hi (h ra rb)
  | _ => simp

/-- Only `BLITDIMS` writes the Blitter's dimensions (10_state R36). -/
theorem Ends.blitDims_eq (e : Ends i s t) (h : i.setsBlitDims = false) : t.blW = s.blW ∧ t.blH = s.blH := by
  cases e with
  | blitDims _ _ hi => simp [h] at hi
  | _ => simp

theorem mainKept_of_eq (h : t.main = s.main) : MainKept s t := fun a => by simp only [State.mainByte, h]
theorem spriteKept_of_eq (h : t.sprite = s.sprite) : SpriteKept s t := fun a => by simp only [State.spriteByte, h]
theorem frameKept_of_eq (h : t.frame = s.frame) : FrameKept s t := fun a => by simp only [State.frameByte, h]

/-- Settles O57, from the writers of each memory and of each pair of the Blitter's registers. -/
theorem memoriesWrittenOnlyByTheirInstructions : Obligations.MemoriesWrittenOnlyByTheirInstructions := by
  intro i s t hexec
  have e := exec_ends hexec
  exact ⟨fun h => mainKept_of_eq (e.main_eq h), fun h => spriteKept_of_eq (e.sprite_eq h),
    fun h => frameKept_of_eq (e.frame_eq h), e.blitMem_eq, e.blitDims_eq⟩

/-! The registers. -/

/-- Writing a register that is not `r`, then advancing, leaves `r` alone. -/
theorem readReg_writeReg_advance {r ra : Reg} (v : Word) (hpc : r ≠ .pc) (hr : r ≠ ra) :
    readReg (writeReg s ra v).advance r = readReg s r := by
  rw [readReg_advance _ hpc, readReg_writeReg_other _ _ hr]

/-- Every way an instruction ends leaves alone a register it does not name, `SP` and `LR` where it moves them of itself
(10_state R26, R28, R29). -/
theorem Ends.readReg_eq {r : Reg} (e : Ends i s t) (hpc : r ≠ .pc) (hsts : r ≠ .sts) (hd : i.dest ≠ some r)
    (hsp : ¬ (r = .sp ∧ i.usesStack = true)) (hlr : ¬ (r = .lr ∧ i.links = true)) : readReg t r = readReg s r := by
  have not_dest : ∀ {ra}, i.dest = some ra → r ≠ ra := fun h e => hd (e ▸ h)
  cases e with
  | result ra v hra => exact readReg_writeReg_advance v hpc (not_dest hra)
  | arith ra v hra =>
    rw [readReg_advance _ hpc, readReg_drawCC _ hsts, readReg_writeReg_other _ _ (not_dest hra)]
  | pop ra v hi =>
    subst hi
    have hsp : r ≠ .sp := fun h => hsp ⟨h, rfl⟩
    rw [readReg_advance _ hpc, readReg_withSp _ _ hsp, readReg_writeReg_other _ _ (not_dest rfl)]
  | push ra p a v hi =>
    subst hi
    have hsp : r ≠ .sp := fun h => hsp ⟨h, rfl⟩
    rw [readReg_advance _ hpc, readReg_memWrite, readReg_withSp _ _ hsp]
  | compare ra rb c => rw [readReg_advance _ hpc, readReg_setCC _ _ hsts]
  | link v w hi =>
    have hlr : r ≠ .lr := fun h => hlr ⟨h, hi⟩
    rw [readReg_withPc _ _ hpc, readReg_withLr _ _ hlr]
  | interruptReturn c => exact readReg_returnFromInterrupt s hpc hsts
  | goto v => exact readReg_withPc s v hpc
  | _ => simp [readReg_advance _ hpc]

/-- Settles O58, over the ways an instruction ends. -/
theorem registersWrittenOnlyAsNamed : Obligations.RegistersWrittenOnlyAsNamed :=
  fun _ _ _ _ hexec hpc hsts hd hsp hlr => (exec_ends hexec).readReg_eq hpc hsts hd hsp hlr

/-! The status. -/

/-- The status after a register other than R29 is written. -/
theorem writeReg_status {ra : Reg} (v : Word) (h : ra ≠ .sts) :
    (writeReg s ra v).cc = s.cc ∧ (writeReg s ra v).iflag = s.iflag := by
  simp only [State.cc, State.iflag, writeReg_sts s v h, and_self]

/-- `STS.CC` is written by `CMP` and ALU operations 0..15 alone, where R29 is not the destination (10_state R34). -/
theorem Ends.cc_eq (e : Ends i s t) (hd : i.dest ≠ some .sts) (ha : i.isArith = false)
    (hc : ∀ ra rb, i ≠ .cmp ra rb) : t.cc = s.cc := by
  cases e with
  | result ra v hra => exact (writeReg_status v fun h => hd (h ▸ hra)).1
  | arith _ _ _ _ hi => simp [ha] at hi
  | pop ra v hi => subst hi; exact (writeReg_status v fun h => hd (congrArg some h)).1
  | compare ra rb _ hi => exact absurd hi (hc ra rb)
  | interruptReturn => simp
  | _ => rfl

/-- `STS.IF` is kept, or cleared by `JMPI`, where R29 is not the destination (10_state R32, 42_control R206). -/
theorem Ends.iflag_cases (e : Ends i s t) (hd : i.dest ≠ some .sts) :
    t.iflag = s.iflag ∨ ((∃ c, i = .jmpi c) ∧ t.iflag = false) := by
  cases e with
  | result ra v hra => exact .inl (writeReg_status v fun h => hd (h ▸ hra)).2
  | arith ra v hra =>
    rw [State.advance_iflag, State.drawCC_iflag]
    exact .inl (writeReg_status v fun h => hd (h ▸ hra)).2
  | pop ra v hi => subst hi; exact .inl (writeReg_status v fun h => hd (congrArg some h)).2
  | compare ra rb c => exact .inl (s.setCC_iflag c.code)
  | interruptReturn c hi => exact .inr ⟨⟨c, hi⟩, returnFromInterrupt_iflag s⟩
  | _ => exact .inl rfl

/-- Settles O59: from what can become of `STS.CC` and of `STS.IF`. -/
theorem statusWrittenOnlyByItsWriters : Obligations.StatusWrittenOnlyByItsWriters := by
  intro i s t hexec hd
  have e := exec_ends hexec
  refine ⟨e.cc_eq hd, fun hj => ?_, fun ht => ?_⟩
  · exact (e.iflag_cases hd).resolve_right fun ⟨⟨c, hi⟩, _⟩ => hj c hi
  · exact (e.iflag_cases hd).elim (fun h => h ▸ ht) fun ⟨_, hclear⟩ => by simp [hclear] at ht

/-! The halt bit, the key tape and the count of free values. -/

/-- No instruction but `HALT` touches the halt bit (10_state R41). -/
theorem Ends.halted_eq (e : Ends i s t) (h : i ≠ .halt) : t.halted = s.halted := by
  cases e with
  | halt hi => exact absurd hi h
  | _ => simp

/-- No instruction touches the key tape (log 15). -/
theorem Ends.keyTape_eq (e : Ends i s t) : t.keyTape = s.keyTape := by cases e <;> simp

/-- No instruction but ALU operations 0..15 draws a free value (40_alu R132). -/
theorem Ends.freeDraws_eq (e : Ends i s t) (h : i.isArith = false) : t.freeDraws = s.freeDraws := by
  cases e with
  | arith _ _ _ _ hi => simp [h] at hi
  | _ => simp

/-- ALU operations 0..15 are the instructions that end in `arith` (40_alu R130). -/
theorem exec_eq_arith (s : State) (h : i.isArith = true) : ∃ ra e, exec i s = arith s ra e := by
  cases i <;> cases h <;> (dsimp only [exec]; exact ⟨_, _, rfl⟩)

/-- An ALU operation 0..15 draws one free value (40_alu R132). -/
theorem exec_arith_freeDraws (hexec : exec i s = .next t) (h : i.isArith = true) : t.freeDraws = s.freeDraws + 1 := by
  obtain ⟨ra, e, he⟩ := exec_eq_arith s h
  obtain ⟨v, _, _, rfl⟩ := arith_next (he ▸ hexec)
  simp

/-- Settles O60: from what can become of each of the three fields. -/
theorem onlyHaltEndsTheRun : Obligations.OnlyHaltEndsTheRun := by
  intro i s t hexec
  have e := exec_ends hexec
  refine ⟨fun hs => ⟨fun ht => ?_, ?_⟩, e.keyTape_eq, ?_⟩
  · by_contra hi
    simp [e.halted_eq hi, hs] at ht
  · rintro rfl
    cases hexec
    rfl
  · cases ha : i.isArith with
    | true => simpa using exec_arith_freeDraws hexec ha
    | false => simpa using e.freeDraws_eq ha

end Sys2Proof.Machine
end

section
/-!
PROOFS. Conditions, and the jumps that meet an invalid status code (10_state R31, R33).
-/

namespace Sys2Proof.Machine

/-- 6 and 13..31 name no condition (10_state R31). -/
theorem Cond.ofCode_eq_none {x : BitVec 5} (h : InvalidCode x) : Cond.ofCode x = none := by
  unfold InvalidCode at h
  revert x
  decide

/-- A non-null condition has no answer on an invalid status code (10_state R33). -/
theorem condMatch_invalid {c : Cond} {x : BitVec 5} (hc : c ≠ .ns) (h : InvalidCode x) : condMatch c x = none :=
  condMatch_eq_none.2 ⟨hc, Cond.ofCode_eq_none h⟩

/-- Settles O41: the relation is read off its definition. -/
theorem condMatchRelation : Obligations.CondMatchRelation :=
  ⟨condMatch_ns, fun _ _ => condMatch_invalid, fun c s =>
    ⟨condRelation c s, condMatch_code c s, by simp [condRelation, or_assoc]⟩⟩

/-- A jump whose condition has no answer is refused (42_control R200). -/
theorem jump_refused {c : Cond} {s : State} (taken : State → State) (h : condMatch c s.cc = none) :
    jump c s taken = .refused .invalidConditionCode := by
  simp [jump, h]

/-- Settles O45: the five jumps differ only in what they do when taken. -/
theorem invalidStatusCodeRefusesJumps : Obligations.InvalidStatusCodeRefusesJumps := by
  intro s c ra imm22 hc hcode
  have h := condMatch_invalid hc hcode
  dsimp only [exec]
  exact ⟨jump_refused _ h, jump_refused _ h, jump_refused _ h, jump_refused _ h, jump_refused _ h⟩

end Sys2Proof.Machine
end

section
/-!
PROOFS. The words written out for every row that has an encoding (30_encoding R94..R103), and the mnemonics that name a
condition (30_encoding R123, R124).
-/

namespace Sys2Proof.Machine

/-- Settles O5: each of the written-out words is decoded by computation. -/
theorem formatWordsDecode : Obligations.FormatWordsDecode := by
  unfold Obligations.FormatWordsDecode
  and_intros <;> rfl

/-- Three mnemonics spell the jumps with a condition where the table has them with the jumps' operand forms: every 22-bit
immediate fits, signed and unsigned (30_encoding R121, R123). -/
theorem spellsJumps_of_lookup {jmp jmps jmpi : String} {c : Cond}
    (hjmp : mnemonics.lookup jmp.toList = some (jumpOperand (.jmpReg c) (.jmpImm c)))
    (hjmps : mnemonics.lookup jmps.toList = some (jumpOperand (.jmpsReg c) (.jmpsImm c)))
    (hjmpi : mnemonics.lookup jmpi.toList = some (noOperand (.jmpi c))) :
    SpellsJumps jmp jmps jmpi c c.code :=
  ⟨rfl, fun _ => assembleOperation_ok hjmp rfl, fun _ => assembleOperation_ok hjmps rfl,
    fun v => ⟨assembleOperation_ok hjmp (by simp), assembleOperation_ok hjmp (by simp)⟩,
    fun v => ⟨assembleOperation_ok hjmps (by simp), assembleOperation_ok hjmps (by simp)⟩,
    assembleOperation_ok hjmpi rfl⟩

/-- Settles O6: each spelling is looked up in the table of mnemonics. -/
theorem jumpMnemonicsNameTheirCondition : Obligations.JumpMnemonicsNameTheirCondition :=
  ⟨spellsJumps_of_lookup rfl rfl rfl, spellsJumps_of_lookup rfl rfl rfl, spellsJumps_of_lookup rfl rfl rfl,
    spellsJumps_of_lookup rfl rfl rfl, spellsJumps_of_lookup rfl rfl rfl, spellsJumps_of_lookup rfl rfl rfl,
    spellsJumps_of_lookup rfl rfl rfl, spellsJumps_of_lookup rfl rfl rfl, spellsJumps_of_lookup rfl rfl rfl,
    spellsJumps_of_lookup rfl rfl rfl, spellsJumps_of_lookup rfl rfl rfl, spellsJumps_of_lookup rfl rfl rfl,
    spellsJumps_of_lookup rfl rfl rfl⟩

end Sys2Proof.Machine
end

section
/-!
PROOFS. The instructions that set the Blitter's registers (43_graphics R226..R228), the state at reset, and the halted
machine.
-/

namespace Sys2Proof.Machine

/-- The low `n` bits of a register as a number (30_encoding R99). -/
theorem toNat_lowBits (n : Nat) (s : State) (r : Reg) : (lowBits n s r).toNat = (readReg s r).toNat % 2 ^ n :=
  BitVec.toNat_setWidth ..

/-- Advancing a state whose registers read as those of `s` keeps every register but `PC`. -/
theorem regsKept_advance {s t : State} (h : ∀ r, readReg t r = readReg s r) : RegsKept [] s t.advance :=
  fun r hpc _ => (readReg_advance t hpc).trans (h r)

/-- Settles O49: `BLITMEM` is one update of the two addresses, `PC` advanced. -/
theorem blitmemSetsTheAddresses : Obligations.BlitmemSetsTheAddresses := fun s ra rb =>
  ⟨_, rfl, toNat_lowBits 12 s ra, toNat_lowBits 16 s rb, rfl, rfl, rfl, rfl,
    regsKept_advance (readReg_withBlitMem s _ _), fun _ => rfl, fun _ => rfl, fun _ => rfl, rfl, rfl⟩

/-- Settles O50: both forms are one update of the two dimensions, `PC` advanced. -/
theorem blitdimsSetTheDimensions : Obligations.BlitdimsSetTheDimensions := fun s ra rb w7 h7 =>
  ⟨⟨_, rfl, toNat_lowBits 7 s ra, toNat_lowBits 7 s rb, rfl, rfl, rfl, rfl,
      regsKept_advance (readReg_withBlitDims s _ _), fun _ => rfl, fun _ => rfl, fun _ => rfl, rfl, rfl⟩,
    ⟨_, rfl, rfl, rfl, rfl, rfl, rfl, rfl,
      regsKept_advance (readReg_withBlitDims s w7 h7), fun _ => rfl, fun _ => rfl, fun _ => rfl, rfl, rfl⟩⟩

/-- Settles O10: R0 to R25 are one vector of zeros; the rest is read off the reset state. -/
theorem resetValues : Obligations.ResetValues := by
  refine ⟨fun n => ?_, rfl, rfl, rfl, by decide, by decide, rfl, rfl, rfl⟩
  simp [readReg, State.reset]

/-- Settles O11: the reset memories list no byte. -/
theorem resetMemoriesCanonical : Obligations.ResetMemoriesCanonical := rfl

/-- Settles O9: the halt bit is tested before anything else (42_control R201). -/
theorem haltedMachineKeepsState : Obligations.HaltedMachineKeepsState :=
  fun _ hs => if_pos hs

end Sys2Proof.Machine
end

section
/-!
PROOFS. Main memory as the loader fills it and as loads and fetches read it (20_memory R63, R70, R72, R75, R76).
-/

namespace Sys2Proof.Machine

/-- A word is its four bytes, the least significant at the lowest byte address (20_memory R63, log 2). -/
theorem State.memRead_eq_mainBytes (s : State) (a : Word) :
    s.memRead a = wordOfBytes (s.mainByte (4 * a.toNat)) (s.mainByte (4 * a.toNat + 1)) (s.mainByte (4 * a.toNat + 2))
      (s.mainByte (4 * a.toNat + 3)) := rfl

/-- Settles O15: a fetch is a load from `pc`, so both clauses are the rule of a read after a write. -/
theorem storeThenLoad : Obligations.StoreThenLoad :=
  fun s a b v => ⟨s.memRead_memWrite a b v, s.memRead_memWrite a b v⟩

/-! The loader. -/

/-- A byte of main memory at the start of a run: the file's, or a free one past it (20_memory R75, R76). -/
theorem mainByte_loaded (file : List Byte) (a : Nat) :
    (State.reset.withMain (cellsFrom 0 file)).mainByte a = file[a]?.getD (Config.initMain a) := by
  rw [State.mainByte, State.withMain_main, Memory.read, find_cellsFrom, if_pos (Nat.zero_le a), Nat.sub_zero]

theorem mainByte_loaded_in {file : List Byte} {a : Nat} (h : a < file.length) :
    (State.reset.withMain (cellsFrom 0 file)).mainByte a = file[a] := by
  simp [mainByte_loaded, h]

theorem mainByte_loaded_past {file : List Byte} {a : Nat} (h : file.length ≤ a) :
    (State.reset.withMain (cellsFrom 0 file)).mainByte a = Config.initMain a := by
  simp [mainByte_loaded, h]

/-- A file of whole words that fits in memory starts a run (20_memory R75). -/
theorem loadBinary_next {file : List Byte} (hword : file.length % 4 = 0) (hsize : file.length ≤ mainSize) :
    loadBinary file = .next (State.reset.withMain (cellsFrom 0 file)) := by
  simp [loadBinary, hword, Nat.not_lt.2 hsize]

/-- A file that is no whole number of words is refused (decision D32). -/
theorem loadBinary_refused {file : List Byte} (hword : file.length % 4 ≠ 0) :
    loadBinary file = .refused .fileLengthNotMultipleOfFour := if_pos hword

/-- Word `k` of a file that fits in memory is read at address `k`, which does not wrap (20_memory R75). -/
theorem memRead_loaded {file : List Byte} {k : Nat} (hsize : file.length ≤ mainSize) (h : 4 * k + 3 < file.length) :
    (State.reset.withMain (cellsFrom 0 file)).memRead (BitVec.ofNat 32 k) =
      wordOfBytes file[4 * k] file[4 * k + 1] file[4 * k + 2] file[4 * k + 3] := by
  have hk : (BitVec.ofNat 32 k).toNat = k := by
    unfold mainSize at hsize
    exact Nat.mod_eq_of_lt (by omega)
  rw [State.memRead_eq_mainBytes, hk, mainByte_loaded_in, mainByte_loaded_in, mainByte_loaded_in, mainByte_loaded_in]

/-- Settles O13: the loaded memory byte by byte, and word by word from its bytes. -/
theorem loaderPlacesFileWords : Obligations.LoaderPlacesFileWords := fun _file =>
  ⟨fun hword hsize => ⟨_, loadBinary_next hword hsize, fun _ h => memRead_loaded hsize h,
    fun _ h => mainByte_loaded_past h, rfl⟩, loadBinary_refused⟩

/-! The binary file of a list of words. -/

theorem length_binaryOf (ws : List Word) : (binaryOf ws).length = 4 * ws.length := by
  induction ws with
  | nil => rfl
  | cons w ws ih => simp only [binaryOf, List.length_cons, ih]; omega

/-- Byte `4k + j` of the file is byte `j` of word `k` (20_memory R63, R75). -/
theorem getElem?_binaryOf {ws : List Word} {k j : Nat} (hk : k < ws.length) (hj : j < 4) :
    (binaryOf ws)[4 * k + j]? = some (wordByte ws[k] j) := by
  induction ws generalizing k with
  | nil => exact absurd hk (Nat.not_lt_zero k)
  | cons w ws ih =>
    cases k with
    | zero => interval_cases j <;> rfl
    | succ k =>
      have hshift : 4 * (k + 1) + j = 4 * k + j + 4 := by omega
      simp only [binaryOf, hshift, List.getElem?_cons_succ, List.getElem_cons_succ]
      exact ih (Nat.lt_of_succ_lt_succ hk)

/-- Settles O14: the loader places the file's words, and the four bytes of a word make up the word. -/
theorem binaryOfWordsLoadsBack : Obligations.BinaryOfWordsLoadsBack := by
  intro ws hws
  have hlen := length_binaryOf ws
  obtain ⟨t, ht, hload, _, _⟩ := (loaderPlacesFileWords (binaryOf ws)).1 (by omega) (by omega)
  refine ⟨t, ht, fun k hk => ?_⟩
  have hbyte : ∀ (j : Nat) (hj : j < 4), (binaryOf ws)[4 * k + j]'(by omega) = wordByte ws[k] j :=
    fun j hj => (List.getElem?_eq_some_iff.1 (getElem?_binaryOf hk hj)).2
  calc t.memRead (BitVec.ofNat 32 k)
    _ = wordOfBytes (wordByte ws[k] 0) (wordByte ws[k] 1) (wordByte ws[k] 2) (wordByte ws[k] 3) := by
      rw [hload k (by omega), hbyte 3 (by decide), hbyte 2 (by decide), hbyte 1 (by decide)]
      exact congrArg _ (hbyte 0 (by decide))
    _ = ws[k] := wordOfBytes_wordByte ws[k]

end Sys2Proof.Machine
end

section
/-!
PROOFS. Transfers that run past the end of a graphics memory (43_graphics R223, R231).
-/

namespace Sys2Proof.Machine

/-- A sprite that would run past the library is refused: `SpriteLoad` answers no memory for it, and it has one reason to
refuse (43_graphics R223, log 12). -/
theorem glod_refused {s : State} {dest len : BitVec 12} (src : Word) (h : 4096 < dest.toNat + len.toNat) :
    glod s dest src len = .refused .graphicsAddressOverflow := by
  unfold glod
  cases hload : spriteLoad s dest.toNat src len.toNat with
  | ok m =>
    have hdest := dest.isLt
    have hrange := (spriteLoad_ok hload).1
    unfold spriteSize at hrange
    omega
  | error r => rw [spriteLoad_error hload]

/-- Settles O48: both forms are `glod`, the register form on the low 12 bits of its operands. -/
theorem glodPastTheEndRefused : Obligations.GlodPastTheEndRefused := by
  intro s ra rb rc dest12 src10 len12
  refine ⟨fun h => glod_refused (readReg s rb) ?_, glod_refused (glodSource s src10)⟩
  rw [toNat_lowBits, toNat_lowBits]
  exact h

/-- Where the whole transfer is answered, its rectangle lies within both memories: if it has a pixel at all, its last
one does (43_graphics R231). -/
theorem blitInRange_of_blitRows {s : State} {bop : BitVec 4} {mask : Byte} {m m' : Memory}
    (h : blitRows s bop mask s.blH.toNat m = .ok m') : BlitInRange s := by
  by_cases hw : s.blW = 0#7
  · exact .inl hw
  by_cases hh : s.blH = 0#7
  · exact .inr (.inl hh)
  obtain ⟨cols, hcols⟩ := Nat.exists_eq_succ_of_ne_zero fun e => hw (BitVec.eq_of_toNat_eq e)
  obtain ⟨rows, hrows⟩ := Nat.exists_eq_succ_of_ne_zero fun e => hh (BitVec.eq_of_toNat_eq e)
  obtain ⟨hsource, hdest⟩ := (blitRows_ok h).1 rows cols (by omega) (by omega)
  unfold blitSource spriteSize at hsource
  unfold blitDest frameSize at hdest
  refine .inr (.inr ⟨?_, by omega⟩)
  have harea : s.blW.toNat * s.blH.toNat = rows * s.blW.toNat + s.blW.toNat := by
    rw [hrows, Nat.mul_succ, Nat.mul_comm]
  omega

/-- A rectangle that leaves either memory is refused (43_graphics R231, log 12). -/
theorem blit_refused {s : State} (bop : BitVec 4) (mask : Byte) (h : ¬ BlitInRange s) :
    blit s bop mask = .refused .graphicsAddressOverflow := by
  unfold blit
  cases hrows : blitRows s bop mask s.blH.toNat s.frame with
  | ok m => exact absurd (blitInRange_of_blitRows hrows) h
  | error r => rw [blitRows_error hrows]

/-- Settles O53: both forms are `blit`, which is refused whatever its operation and mask. -/
theorem blitPastTheEndRefused : Obligations.BlitPastTheEndRefused :=
  fun _ _ _ _ _ h => ⟨blit_refused _ _ h, blit_refused _ _ h⟩

end Sys2Proof.Machine
end

section
/-!
PROOFS. What a step of a running machine does with the head of the key tape and with the word at `pc` (20_memory R74,
30_encoding R112, 60_exceptions R256).
-/

namespace Sys2Proof.Machine

variable {s : State}

theorem nextKey_cons_some {k : Key} {tape : List (Option Key)} (h : s.keyTape = some k :: tape) :
    nextKey s = some k := by simp [nextKey, h]

theorem nextKey_cons_none {tape : List (Option Key)} (h : s.keyTape = none :: tape) : nextKey s = none := by
  simp [nextKey, h]

theorem nextKey_nil (h : s.keyTape = []) : nextKey s = none := by simp [nextKey, h]

theorem dropTape_cons {e : Option Key} {tape : List (Option Key)} (h : s.keyTape = e :: tape) :
    dropTape s = s.withKeyTape tape := by rw [dropTape, h, List.tail_cons]

/-- An empty tape stays as it is. -/
theorem dropTape_nil (h : s.keyTape = []) : dropTape s = s := by
  rw [dropTape, h, List.tail_nil, ← h]
  rfl

/-- With a key event first, a step examines it (60_exceptions R256). -/
theorem step_key {k : Key} (hrun : s.halted = false) (hkey : nextKey s = some k) :
    step s = .next (keyEvent k (dropTape s)) := by simp [step, hrun, hkey]

/-- With no key event first, a step runs the instruction at `pc`, the tape moved on. -/
theorem step_noKey (hrun : s.halted = false) (hkey : nextKey s = none) : step s = runInstruction (dropTape s) := by
  simp [step, hrun, hkey]

theorem runInstruction_ok {i : Instr} (h : decode (fetch s) = .ok i) : runInstruction s = exec i s := by
  simp [runInstruction, h]

theorem runInstruction_error {r : DecodeRefusal} (h : decode (fetch s) = .error r) :
    runInstruction s = .refused (decodeRefusal r) := by simp [runInstruction, h]

/-- With no key event first, a step executes what the word at `pc` decodes to: moving the tape on does not change it. -/
theorem step_noKey_ok {i : Instr} (hrun : s.halted = false) (hkey : nextKey s = none) (h : decode (fetch s) = .ok i) :
    step s = exec i (dropTape s) :=
  (step_noKey hrun hkey).trans (runInstruction_ok (by rwa [fetch_dropTape]))

/-- Settles O7, by the three shapes of the key tape. -/
theorem stepRunsDecodedInstruction : Obligations.StepRunsDecodedInstruction := by
  intro s i hrun hdecode _
  refine ⟨fun htape => ?_, fun tape htape => ?_, fun k tape htape => ?_⟩
  · rw [step_noKey_ok hrun (nextKey_nil htape) hdecode, dropTape_nil htape]
  · rw [step_noKey_ok hrun (nextKey_cons_none htape) hdecode, dropTape_cons htape]
  · rw [step_key hrun (nextKey_cons_some htape), dropTape_cons htape]

/-- Settles O8: the step comes to decoding, whose reason it passes on. -/
theorem undecodableWordHasNoStep : Obligations.UndecodableWordHasNoStep :=
  fun s _ hrun hkey hdecode =>
    (step_noKey hrun hkey).trans (runInstruction_error ((congrArg decode (fetch_dropTape s)).trans hdecode))

end Sys2Proof.Machine
end

section
/-!
PROOFS. The words of the formats: a word has a format exactly where its fields are the format's and its unused bits are
zero (30_encoding R93..R97).
-/

namespace Sys2Proof

theorem regField_eq_iff {w : Word} {lo : Nat} {r : Reg} : regField w lo = r ↔ field w lo 5 = r.num := by
  rw [regField, ← Reg.num_inj, Reg.num_ofNum]

theorem field_eq_ofNat {w : Word} {lo len n : Nat} (h : (field w lo len).toNat = n) :
    field w lo len = BitVec.ofNat len n := by
  rw [← h, BitVec.ofNat_toNat, BitVec.setWidth_eq]

/-- The unused bits of a format are the top ones: a mask of them leaves nothing of a word exactly where the field they
form is zero. -/
theorem and_mask_eq_zero_iff {w mask : Word} {lo len : Nat} (hlen : lo + len = 32)
    (hmask : ∀ i < 32, mask.getLsbD i = decide (lo ≤ i)) : w &&& mask = 0#32 ↔ field w lo len = 0#len := by
  refine ⟨fun h => field_eq_zero h fun i hi => by simp [hmask (lo + i) (by omega)], fun h => ?_⟩
  refine BitVec.eq_of_getLsbD_eq fun i hi => ?_
  rw [BitVec.getLsbD_and, hmask i hi, BitVec.getLsbD_zero, Bool.and_eq_false_iff, or_iff_not_imp_right]
  intro hlo
  have hlo : lo ≤ i := by simpa using hlo
  have hbit := congrArg (fun v => v.getLsbD (i - lo)) h
  simpa [field, show i - lo < len by omega, show lo + (i - lo) = i by omega] using hbit

theorem formatARRR_eq_iff {w : Word} {op6 : BitVec 6} {ra rb rc : Reg} :
    formatARRR op6 ra rb rc = w ↔ field w 5 2 = 0b01#2 ∧ field w 7 6 = op6 ∧ condField w = 0#5 ∧
      regField w 13 = ra ∧ regField w 18 = rb ∧ regField w 23 = rc ∧ w &&& 0xF0000000#32 = 0#32 := by
  rw [and_mask_eq_zero_iff (lo := 28) (len := 4) rfl (by decide)]
  constructor
  · rintro rfl
    obtain ⟨cd, ty, op, ha, hb, hc, un⟩ := formatARRR_fields op6 ra rb rc
    exact ⟨ty, op, cd, regField_eq_iff.2 ha, regField_eq_iff.2 hb, regField_eq_iff.2 hc, un⟩
  · rintro ⟨ty, op, cd, rfl, rfl, rfl, un⟩
    exact formatARRR_glue w op ty cd un

theorem formatARRI_eq_iff {w : Word} {op6 : BitVec 6} {ra rb : Reg} {imm9 : BitVec 9} :
    formatARRI op6 ra rb imm9 = w ↔ field w 5 2 = 0b01#2 ∧ field w 7 6 = op6 ∧ condField w = 0#5 ∧
      regField w 13 = ra ∧ regField w 18 = rb ∧ field w 23 9 = imm9 := by
  constructor
  · rintro rfl
    obtain ⟨cd, ty, op, ha, hb, hi⟩ := formatARRI_fields op6 ra rb imm9
    exact ⟨ty, op, cd, regField_eq_iff.2 ha, regField_eq_iff.2 hb, hi⟩
  · rintro ⟨ty, op, cd, rfl, rfl, rfl⟩
    exact formatARRI_glue w op ty cd

theorem formatARR_eq_iff {w : Word} {op6 : BitVec 6} {ra rb : Reg} :
    formatARR op6 ra rb = w ↔ field w 5 2 = 0b01#2 ∧ field w 7 6 = op6 ∧ condField w = 0#5 ∧
      regField w 13 = ra ∧ regField w 18 = rb ∧ w &&& 0xFF800000#32 = 0#32 := by
  rw [and_mask_eq_zero_iff (lo := 23) (len := 9) rfl (by decide)]
  constructor
  · rintro rfl
    obtain ⟨cd, ty, op, ha, hb, un⟩ := formatARR_fields op6 ra rb
    exact ⟨ty, op, cd, regField_eq_iff.2 ha, regField_eq_iff.2 hb, un⟩
  · rintro ⟨ty, op, cd, rfl, rfl, un⟩
    exact formatARR_glue w op ty cd un

theorem formatARI14_eq_iff {w : Word} {op6 : BitVec 6} {ra : Reg} {imm14 : BitVec 14} :
    formatARI14 op6 ra imm14 = w ↔ field w 5 2 = 0b01#2 ∧ field w 7 6 = op6 ∧ condField w = 0#5 ∧
      regField w 13 = ra ∧ field w 18 14 = imm14 := by
  constructor
  · rintro rfl
    obtain ⟨cd, ty, op, ha, hi⟩ := formatARI14_fields op6 ra imm14
    exact ⟨ty, op, cd, regField_eq_iff.2 ha, hi⟩
  · rintro ⟨ty, op, cd, rfl, rfl⟩
    exact formatARI14_glue w op ty cd

theorem formatMRR_eq_iff {w : Word} {op3 : BitVec 3} {ra rb : Reg} :
    formatMRR op3 ra rb = w ↔ field w 5 2 = 0b10#2 ∧ field w 7 3 = op3 ∧ condField w = 0#5 ∧
      regField w 10 = ra ∧ regField w 15 = rb ∧ w &&& 0xFFF00000#32 = 0#32 := by
  rw [and_mask_eq_zero_iff (lo := 20) (len := 12) rfl (by decide)]
  constructor
  · rintro rfl
    obtain ⟨cd, ty, op, ha, hb, un⟩ := formatMRR_fields op3 ra rb
    exact ⟨ty, op, cd, regField_eq_iff.2 ha, regField_eq_iff.2 hb, un⟩
  · rintro ⟨ty, op, cd, rfl, rfl, un⟩
    exact formatMRR_glue w op ty cd un

theorem formatMRI_eq_iff {w : Word} {op3 : BitVec 3} {ra : Reg} {imm17 : BitVec 17} :
    formatMRI op3 ra imm17 = w ↔ field w 5 2 = 0b10#2 ∧ field w 7 3 = op3 ∧ condField w = 0#5 ∧
      regField w 10 = ra ∧ field w 15 17 = imm17 := by
  constructor
  · rintro rfl
    obtain ⟨cd, ty, op, ha, hi⟩ := formatMRI_fields op3 ra imm17
    exact ⟨ty, op, cd, regField_eq_iff.2 ha, hi⟩
  · rintro ⟨ty, op, cd, rfl, rfl⟩
    exact formatMRI_glue w op ty cd

theorem formatMR_eq_iff {w : Word} {op3 : BitVec 3} {ra : Reg} :
    formatMR op3 ra = w ↔ field w 5 2 = 0b10#2 ∧ field w 7 3 = op3 ∧ condField w = 0#5 ∧
      regField w 10 = ra ∧ w &&& 0xFFFF8000#32 = 0#32 := by
  rw [and_mask_eq_zero_iff (lo := 15) (len := 17) rfl (by decide)]
  constructor
  · rintro rfl
    obtain ⟨cd, ty, op, ha, un⟩ := formatMR_fields op3 ra
    exact ⟨ty, op, cd, regField_eq_iff.2 ha, un⟩
  · rintro ⟨ty, op, cd, rfl, un⟩
    exact formatMR_glue w op ty cd un

theorem formatC0_eq_iff {w : Word} {op3 : BitVec 3} {c : Cond} :
    formatC0 op3 c = w ↔ field w 5 2 = 0b00#2 ∧ field w 7 3 = op3 ∧ condField w = c.code ∧
      w &&& 0xFFFFFC00#32 = 0#32 := by
  rw [and_mask_eq_zero_iff (lo := 10) (len := 22) rfl (by decide)]
  constructor
  · rintro rfl
    obtain ⟨cd, ty, op, un⟩ := formatC0_fields op3 c
    exact ⟨ty, op, cd, un⟩
  · rintro ⟨ty, op, cd, un⟩
    exact formatC0_glue w op ty cd un

theorem formatCR_eq_iff {w : Word} {op3 : BitVec 3} {c : Cond} {ra : Reg} :
    formatCR op3 c ra = w ↔ field w 5 2 = 0b00#2 ∧ field w 7 3 = op3 ∧ condField w = c.code ∧
      regField w 10 = ra ∧ w &&& 0xFFFF8000#32 = 0#32 := by
  rw [and_mask_eq_zero_iff (lo := 15) (len := 17) rfl (by decide)]
  constructor
  · rintro rfl
    obtain ⟨cd, ty, op, ha, un⟩ := formatCR_fields op3 c ra
    exact ⟨ty, op, cd, regField_eq_iff.2 ha, un⟩
  · rintro ⟨ty, op, cd, rfl, un⟩
    exact formatCR_glue w op ty cd un

theorem formatCI_eq_iff {w : Word} {op3 : BitVec 3} {c : Cond} {imm22 : BitVec 22} :
    formatCI op3 c imm22 = w ↔ field w 5 2 = 0b00#2 ∧ field w 7 3 = op3 ∧ condField w = c.code ∧
      field w 10 22 = imm22 := by
  constructor
  · rintro rfl
    obtain ⟨cd, ty, op, hi⟩ := formatCI_fields op3 c imm22
    exact ⟨ty, op, cd, hi⟩
  · rintro ⟨ty, op, cd, rfl⟩
    exact formatCI_glue w op ty cd

theorem formatGRRR_eq_iff {w : Word} {op3 : BitVec 3} {ra rb rc : Reg} :
    formatGRRR op3 ra rb rc = w ↔ field w 5 2 = 0b11#2 ∧ field w 7 3 = op3 ∧ condField w = 0#5 ∧
      regField w 10 = ra ∧ regField w 15 = rb ∧ regField w 20 = rc ∧ w &&& 0xFE000000#32 = 0#32 := by
  rw [and_mask_eq_zero_iff (lo := 25) (len := 7) rfl (by decide)]
  constructor
  · rintro rfl
    obtain ⟨cd, ty, op, ha, hb, hc, un⟩ := formatGRRR_fields op3 ra rb rc
    exact ⟨ty, op, cd, regField_eq_iff.2 ha, regField_eq_iff.2 hb, regField_eq_iff.2 hc, un⟩
  · rintro ⟨ty, op, cd, rfl, rfl, rfl, un⟩
    exact formatGRRR_glue w op ty cd un

theorem formatGRR_eq_iff {w : Word} {op3 : BitVec 3} {ra rb : Reg} :
    formatGRR op3 ra rb = w ↔ field w 5 2 = 0b11#2 ∧ field w 7 3 = op3 ∧ condField w = 0#5 ∧
      regField w 10 = ra ∧ regField w 15 = rb ∧ w &&& 0xFFF00000#32 = 0#32 := by
  rw [and_mask_eq_zero_iff (lo := 20) (len := 12) rfl (by decide)]
  constructor
  · rintro rfl
    obtain ⟨cd, ty, op, ha, hb, un⟩ := formatGRR_fields op3 ra rb
    exact ⟨ty, op, cd, regField_eq_iff.2 ha, regField_eq_iff.2 hb, un⟩
  · rintro ⟨ty, op, cd, rfl, rfl, un⟩
    exact formatGRR_glue w op ty cd un

theorem formatGDIM_eq_iff {w : Word} {op3 : BitVec 3} {w7 h7 : BitVec 7} :
    formatGDIM op3 w7 h7 = w ↔ field w 5 2 = 0b11#2 ∧ field w 7 3 = op3 ∧ condField w = 0#5 ∧
      field w 10 7 = w7 ∧ field w 17 7 = h7 ∧ w &&& 0xFF000000#32 = 0#32 := by
  rw [and_mask_eq_zero_iff (lo := 24) (len := 8) rfl (by decide)]
  constructor
  · rintro rfl
    obtain ⟨cd, ty, op, hw, hh, un⟩ := formatGDIM_fields op3 w7 h7
    exact ⟨ty, op, cd, hw, hh, un⟩
  · rintro ⟨ty, op, cd, rfl, rfl, un⟩
    exact formatGDIM_glue w op ty cd un

theorem formatGBLT_eq_iff {w : Word} {op3 : BitVec 3} {bop4 : BitVec 4} {mask8 : BitVec 8} :
    formatGBLT op3 bop4 mask8 = w ↔ field w 5 2 = 0b11#2 ∧ field w 7 3 = op3 ∧ condField w = 0#5 ∧
      field w 10 4 = bop4 ∧ field w 14 8 = mask8 ∧ w &&& 0xFFC00000#32 = 0#32 := by
  rw [and_mask_eq_zero_iff (lo := 22) (len := 10) rfl (by decide)]
  constructor
  · rintro rfl
    obtain ⟨cd, ty, op, hb, hm, un⟩ := formatGBLT_fields op3 bop4 mask8
    exact ⟨ty, op, cd, hb, hm, un⟩
  · rintro ⟨ty, op, cd, rfl, rfl, un⟩
    exact formatGBLT_glue w op ty cd un

end Sys2Proof
end

section
/-!
PROOFS. Decoding and encoding are inverse to each other: an instruction's word decodes to it, and a word that decodes is its
instruction's word (30_encoding R104, R111).
-/

namespace Sys2Proof

variable {w : Word} {i : Instr}

/-! The four types (30_encoding R92). -/

theorem selectRow_control (h : field w 5 2 = 0b00#2) : selectRow w = decodeControl w := by simp [selectRow, h]

theorem selectRow_alu (h : field w 5 2 = 0b01#2) : selectRow w = decodeAlu w := by simp [selectRow, h]

theorem selectRow_memory (h : field w 5 2 = 0b10#2) : selectRow w = decodeMemory w := by simp [selectRow, h]

theorem selectRow_graphics (h : field w 5 2 = 0b11#2) : selectRow w = decodeGraphics w := by simp [selectRow, h]

/-- Every word has one of the four types. -/
theorem type_cases (w : Word) :
    field w 5 2 = 0b00#2 ∨ field w 5 2 = 0b01#2 ∨ field w 5 2 = 0b10#2 ∨ field w 5 2 = 0b11#2 := by
  generalize field w 5 2 = ty
  revert ty
  decide

/-! A jump's condition (30_encoding R104). -/

theorem jumpWith_ok {jump : Cond → Instr} (h : jumpWith w jump = .ok i) : ∃ c, condField w = c.code ∧ i = jump c := by
  unfold jumpWith at h
  split at h <;> cases h
  next c hc => exact ⟨c, (Machine.Cond.code_of_ofCode hc).symm, rfl⟩

/-! The bits that must be zero (30_encoding R93, R111). -/

/-- The lowest five bits of a word are its condition. -/
theorem and_condMask_eq_zero_iff : w &&& 0x1F#32 = 0#32 ↔ condField w = 0#5 := by
  refine ⟨fun h => field_eq_zero h (by decide), fun h => BitVec.eq_of_getLsbD_eq fun i hi => ?_⟩
  have hmask : ∀ i < 32, (0x1F#32).getLsbD i = decide (i < 5) := by decide
  have hbit := congrArg (fun v => v.getLsbD i) h
  rw [BitVec.getLsbD_and, hmask i hi, Bool.and_comm]
  simpa [condField, field] using hbit

/-- No bit that must be zero is set: no unused one, and in a non-jump none of the condition. -/
theorem and_zeroBits_eq_zero_iff :
    w &&& i.zeroBits = 0#32 ↔ w &&& i.unusedBits = 0#32 ∧ (i.usesCond = false → condField w = 0#5) := by
  rw [Instr.zeroBits]
  cases i.usesCond <;> simp [and_condMask_eq_zero_iff, BitVec.and_or_distrib_left, BitVec.or_eq_zero_iff]

/-- A word that selects no row is refused for that reason. -/
theorem decode_error {r : DecodeRefusal} (hrow : selectRow w = .error r) : decode w = .error r := by
  simp [decode, hrow]

/-- A word that selects a row decodes to it, unless a bit is set that must be zero. -/
theorem decode_of_selectRow (hrow : selectRow w = .ok i) :
    decode w = if w &&& i.zeroBits = 0#32 then .ok i else .error .reservedEncoding := by
  simp [decode, hrow, strictEncoding]

theorem decode_eq_ok_iff :
    decode w = .ok i ↔
      selectRow w = .ok i ∧ w &&& i.unusedBits = 0#32 ∧ (i.usesCond = false → condField w = 0#5) := by
  rw [← and_zeroBits_eq_zero_iff]
  constructor
  · intro h
    cases hrow : selectRow w with
    | error r => rw [decode_error hrow] at h; cases h
    | ok j =>
      rw [decode_of_selectRow hrow] at h
      split at h <;> cases h
      next hzero => exact ⟨rfl, hzero⟩
  · rintro ⟨hrow, hzero⟩
    rw [decode_of_selectRow hrow, if_pos hzero]

/-- A word that selects a row and does not decode to it is refused as reserved. -/
theorem decode_reserved (hrow : selectRow w = .ok i)
    (h : ¬ (w &&& i.unusedBits = 0#32 ∧ (i.usesCond = false → condField w = 0#5))) :
    decode w = .error .reservedEncoding := by
  rw [decode_of_selectRow hrow, if_neg (mt and_zeroBits_eq_zero_iff.1 h)]

/-! An instruction's word decodes to the instruction. -/

theorem decode_of_encode (h : encode i = some w) : decode w = .ok i := by
  rw [decode_eq_ok_iff]
  cases i with
  | adduReg | addsReg | subuReg | subsReg | mltuReg | mltsReg | divuReg | divsReg | andReg | orReg | xorReg =>
    obtain ⟨ty, op, cd, ra, rb, rc, un⟩ := formatARRR_eq_iff.1 (Option.some.inj h)
    exact ⟨by simp [selectRow_alu ty, decodeAlu, op, ra, rb, rc], un, fun _ => cd⟩
  | adduImm | addsImm | subuImm | subsImm | mltuImm | mltsImm | divuImm | divsImm | andImm | orImm | xorImm =>
    obtain ⟨ty, op, cd, ra, rb, imm⟩ := formatARRI_eq_iff.1 (Option.some.inj h)
    exact ⟨by simp [selectRow_alu ty, decodeAlu, op, ra, rb, imm], BitVec.and_zero, fun _ => cd⟩
  | mv | cmp | aslReg | asrReg | lslReg | lsrReg | notReg =>
    obtain ⟨ty, op, cd, ra, rb, un⟩ := formatARR_eq_iff.1 (Option.some.inj h)
    exact ⟨by simp [selectRow_alu ty, decodeAlu, op, ra, rb], un, fun _ => cd⟩
  | aslImm | asrImm | lslImm | lsrImm =>
    obtain ⟨ty, op, cd, ra, imm⟩ := formatARI14_eq_iff.1 (Option.some.inj h)
    exact ⟨by simp [selectRow_alu ty, decodeAlu, op, ra, imm], BitVec.and_zero, fun _ => cd⟩
  | ldrReg | strReg =>
    obtain ⟨ty, op, cd, ra, rb, un⟩ := formatMRR_eq_iff.1 (Option.some.inj h)
    exact ⟨by simp [selectRow_memory ty, decodeMemory, op, ra, rb], un, fun _ => cd⟩
  | ldrImm | strImm =>
    obtain ⟨ty, op, cd, ra, imm⟩ := formatMRI_eq_iff.1 (Option.some.inj h)
    exact ⟨by simp [selectRow_memory ty, decodeMemory, op, ra, imm], BitVec.and_zero, fun _ => cd⟩
  | push | pop =>
    obtain ⟨ty, op, cd, ra, un⟩ := formatMR_eq_iff.1 (Option.some.inj h)
    exact ⟨by simp [selectRow_memory ty, decodeMemory, op, ra], un, fun _ => cd⟩
  | halt =>
    obtain ⟨ty, op, cd, un⟩ := formatC0_eq_iff.1 (Option.some.inj h)
    exact ⟨by simp [selectRow_control ty, decodeControl, op], un, fun _ => cd⟩
  | jmpi =>
    obtain ⟨ty, op, cd, un⟩ := formatC0_eq_iff.1 (Option.some.inj h)
    exact ⟨by simp [selectRow_control ty, decodeControl, op, jumpWith, cd], un, nofun⟩
  | jmpReg | jmpsReg =>
    obtain ⟨ty, op, cd, ra, un⟩ := formatCR_eq_iff.1 (Option.some.inj h)
    exact ⟨by simp [selectRow_control ty, decodeControl, op, jumpWith, cd, ra], un, nofun⟩
  | jmpImm | jmpsImm =>
    obtain ⟨ty, op, cd, imm⟩ := formatCI_eq_iff.1 (Option.some.inj h)
    exact ⟨by simp [selectRow_control ty, decodeControl, op, jumpWith, cd, imm], BitVec.and_zero, nofun⟩
  | glodReg =>
    obtain ⟨ty, op, cd, ra, rb, rc, un⟩ := formatGRRR_eq_iff.1 (Option.some.inj h)
    exact ⟨by simp [selectRow_graphics ty, decodeGraphics, op, ra, rb, rc], un, fun _ => cd⟩
  | glodImm => cases h
  | blitmem | blitdimsReg | blitReg =>
    obtain ⟨ty, op, cd, ra, rb, un⟩ := formatGRR_eq_iff.1 (Option.some.inj h)
    exact ⟨by simp [selectRow_graphics ty, decodeGraphics, op, ra, rb], un, fun _ => cd⟩
  | blitdimsImm =>
    obtain ⟨ty, op, cd, width, height, un⟩ := formatGDIM_eq_iff.1 (Option.some.inj h)
    exact ⟨by simp [selectRow_graphics ty, decodeGraphics, op, width, height], un, fun _ => cd⟩
  | blitImm =>
    obtain ⟨ty, op, cd, bop, mask, un⟩ := formatGBLT_eq_iff.1 (Option.some.inj h)
    exact ⟨by simp [selectRow_graphics ty, decodeGraphics, op, bop, mask], un, fun _ => cd⟩

/-! A word that decodes is its instruction's word: each row of a type cuts the fields of its own format. -/

theorem encode_of_decodeAlu (ty : field w 5 2 = 0b01#2) (h : decodeAlu w = .ok i) (un : w &&& i.unusedBits = 0#32)
    (cd : i.usesCond = false → condField w = 0#5) : encode i = some w := by
  unfold decodeAlu at h
  split at h <;> cases h
  all_goals
    next op =>
    have op := field_eq_ofNat op
    simp only [Instr.unusedBits, BitVec.ofNat_eq_ofNat] at un
    simp [encode, formatARRR_eq_iff, formatARRI_eq_iff, formatARR_eq_iff, formatARI14_eq_iff, ty, op, cd rfl, un]

theorem encode_of_decodeMemory (ty : field w 5 2 = 0b10#2) (h : decodeMemory w = .ok i)
    (un : w &&& i.unusedBits = 0#32) (cd : i.usesCond = false → condField w = 0#5) : encode i = some w := by
  unfold decodeMemory at h
  split at h <;> cases h
  all_goals
    next op =>
    have op := field_eq_ofNat op
    simp only [Instr.unusedBits, BitVec.ofNat_eq_ofNat] at un
    simp [encode, formatMRR_eq_iff, formatMRI_eq_iff, formatMR_eq_iff, ty, op, cd rfl, un]

theorem encode_of_decodeGraphics (ty : field w 5 2 = 0b11#2) (h : decodeGraphics w = .ok i)
    (un : w &&& i.unusedBits = 0#32) (cd : i.usesCond = false → condField w = 0#5) : encode i = some w := by
  unfold decodeGraphics at h
  split at h <;> cases h
  all_goals
    next op =>
    have op := field_eq_ofNat op
    simp only [Instr.unusedBits, BitVec.ofNat_eq_ofNat] at un
    simp [encode, formatGRRR_eq_iff, formatGRR_eq_iff, formatGDIM_eq_iff, formatGBLT_eq_iff, ty, op, cd rfl, un]

theorem encode_of_decodeControl (ty : field w 5 2 = 0b00#2) (h : decodeControl w = .ok i)
    (un : w &&& i.unusedBits = 0#32) (cd : i.usesCond = false → condField w = 0#5) : encode i = some w := by
  unfold decodeControl at h
  split at h
  case h_1 op =>
    cases h
    exact congrArg some (formatC0_eq_iff.2 ⟨ty, field_eq_ofNat op, cd rfl, un⟩)
  case h_7 => cases h
  all_goals
    next op =>
    have op := field_eq_ofNat op
    obtain ⟨c, hc, rfl⟩ := jumpWith_ok h
    simp only [Instr.unusedBits, BitVec.ofNat_eq_ofNat] at un
    simp [encode, formatC0_eq_iff, formatCR_eq_iff, formatCI_eq_iff, ty, op, hc, un]

theorem encode_of_decode (h : decode w = .ok i) : encode i = some w := by
  obtain ⟨hrow, un, cd⟩ := decode_eq_ok_iff.1 h
  rcases type_cases w with ty | ty | ty | ty
  · exact encode_of_decodeControl ty (selectRow_control ty ▸ hrow) un cd
  · exact encode_of_decodeAlu ty (selectRow_alu ty ▸ hrow) un cd
  · exact encode_of_decodeMemory ty (selectRow_memory ty ▸ hrow) un cd
  · exact encode_of_decodeGraphics ty (selectRow_graphics ty ▸ hrow) un cd

/-- The instructions with a word are the well-formed ones (30_encoding R97). -/
theorem encode_isSome (i : Instr) : (encode i).isSome = i.wellFormed := by cases i <;> rfl

/-- Settles O2: a well-formed instruction has a word, and that word decodes to it. -/
theorem decodeOfEncode : Obligations.DecodeOfEncode := by
  intro i hi
  obtain ⟨w, hw⟩ := Option.isSome_iff_exists.1 ((encode_isSome i).trans hi)
  exact ⟨w, hw, decode_of_encode hw⟩

/-- Settles O3: the encoder has no word for an instruction that is not well-formed. -/
theorem encodeOfDecode : Obligations.EncodeOfDecode := by
  intro w i h
  have hw := encode_of_decode h
  exact ⟨hw, by rw [← encode_isSome, hw, Option.isSome_some]⟩

end Sys2Proof
end

section
/-!
PROOFS. The words that decode to nothing, by class (30_encoding R104, R110), and the zero word (30_encoding R114,
42_control R201).
-/

namespace Sys2Proof

variable {w : Word} {i : Instr}

/-! Operations the tables leave out. -/

theorem decodeAlu_reserved (h : 32 < (field w 7 6).toNat) : decodeAlu w = .error .reservedEncoding := by
  unfold decodeAlu
  split
  case h_34 => rfl
  all_goals omega

theorem decodeMemory_reserved (h : 5 < (field w 7 3).toNat) : decodeMemory w = .error .reservedEncoding := by
  unfold decodeMemory
  split
  case h_7 => rfl
  all_goals omega

theorem decodeControl_reserved (h : 5 < (field w 7 3).toNat) : decodeControl w = .error .reservedEncoding := by
  unfold decodeControl
  split
  case h_7 => rfl
  all_goals omega

/-! Jumps. -/

theorem jumpWith_invalid (jump : Cond → Instr) (h : Machine.InvalidCode (condField w)) :
    jumpWith w jump = .error .invalidConditionCode := by
  rw [jumpWith, Machine.Cond.ofCode_eq_none h]

/-- The Control operations 1 to 5 are jumps, refused for an invalid condition. -/
theorem decodeControl_invalid (h1 : 1 ≤ (field w 7 3).toNat) (h5 : (field w 7 3).toNat ≤ 5)
    (h : Machine.InvalidCode (condField w)) : decodeControl w = .error .invalidConditionCode := by
  interval_cases hop : (field w 7 3).toNat <;> simp [decodeControl, hop, jumpWith_invalid _ h]

/-- Only words of the Control type encode a jump (30_encoding R93). -/
theorem type_of_usesCond (h : encode i = some w) (hcond : i.usesCond = true) : field w 5 2 = 0b00#2 := by
  cases i with
  | jmpReg | jmpsReg => exact (formatCR_eq_iff.1 (Option.some.inj h)).1
  | jmpImm | jmpsImm => exact (formatCI_eq_iff.1 (Option.some.inj h)).1
  | jmpi => exact (formatC0_eq_iff.1 (Option.some.inj h)).1
  | _ => cases hcond

/-- A word with a non-null condition decodes to nothing unless it is of the Control type (30_encoding R93). -/
theorem decode_of_cond_of_type (hty : field w 5 2 ≠ 0b00#2) (hcond : condField w ≠ 0#5) :
    ∃ r, decode w = .error r := by
  cases h : decode w with
  | error r => exact ⟨r, rfl⟩
  | ok i =>
    obtain ⟨_, _, hnull⟩ := decode_eq_ok_iff.1 h
    have huses : i.usesCond = false := Bool.eq_false_iff.2 (mt (type_of_usesCond (encode_of_decode h)) hty)
    exact absurd (hnull huses) hcond

/-- The one word of the halt operation that decodes is the zero word (30_encoding R114). -/
theorem decode_of_halt_operation (hty : field w 5 2 = 0b00#2) (hop : field w 7 3 = 0#3) (hw : w ≠ 0#32) :
    decode w = .error .reservedEncoding := by
  have hrow : selectRow w = .ok .halt := by simp [selectRow_control hty, decodeControl, hop]
  refine decode_reserved hrow fun hzero => hw ?_
  have hword : encode .halt = some w := encode_of_decode (decode_eq_ok_iff.2 ⟨hrow, hzero⟩)
  exact (Option.some.inj hword).symm

/-- Settles O4, class by class. -/
theorem undefinedWordsRefused : Obligations.UndefinedWordsRefused := by
  intro w
  refine ⟨fun hty hop => ?_, fun hty hop => ?_, fun hty hop => ?_, fun hty hop => ?_, fun hty hop => ?_,
    fun hty h1 h5 hcode => ?_, decode_of_cond_of_type, decode_of_halt_operation, fun i hrow huses hcond => ?_,
    fun i hrow hunused => ?_⟩
  · exact decode_error ((selectRow_alu hty).trans (decodeAlu_reserved hop))
  · exact decode_error ((selectRow_memory hty).trans (decodeMemory_reserved hop))
  · exact decode_error ((selectRow_control hty).trans (decodeControl_reserved hop))
  · exact decode_error (by simp [selectRow_graphics hty, decodeGraphics, hop])
  · exact decode_error (by simp [selectRow_graphics hty, decodeGraphics, hop])
  · exact decode_error ((selectRow_control hty).trans (decodeControl_invalid h1 h5 hcode))
  · exact decode_reserved hrow fun ⟨_, hnull⟩ => hcond (hnull huses)
  · exact decode_reserved hrow fun ⟨hzero, _⟩ => hunused hzero

/-! The zero word. -/

theorem decode_zero : decode 0#32 = .ok .halt := decode_of_encode rfl

namespace Machine

/-- Running the zero word is `HALT` (30_encoding R114). -/
theorem runInstruction_zero {s : State} (h : s.memRead s.pc = 0#32) : runInstruction s = .next (s.withHalted true) :=
  runInstruction_ok ((congrArg decode h).trans decode_zero)

/-- Settles O1: the zero word is the word of `HALT`, and running it sets the halt bit. -/
theorem zeroWordIsHalt : Obligations.ZeroWordIsHalt :=
  ⟨rfl, rfl, rfl, rfl, decode_zero, fun _ h => ⟨_, runInstruction_zero h, rfl⟩⟩

/-- Settles O40: `HALT` is one update of the halt bit. -/
theorem haltEndsTheRun : Obligations.HaltEndsTheRun :=
  ⟨fun s => ⟨_, rfl, rfl, rfl, fun r _ _ => readReg_withHalted s true r, fun _ => rfl, fun _ => rfl, fun _ => rfl,
    ⟨rfl, rfl, rfl, rfl⟩, rfl, rfl⟩, fun _ => runInstruction_zero⟩

end Machine

end Sys2Proof
end

section
/-!
PROOFS. A sprite that ends within the library is copied (43_graphics R223, R224).
-/

namespace Sys2Proof.Machine

/-- `SpriteLoad` answers where the sprite ends within the library: it refuses no earlier than a byte past the end. -/
theorem spriteLoad_ok_of_le {s : State} {dest : Nat} (src : Word) {n : Nat} (h : dest + n ≤ spriteSize) :
    ∃ m, spriteLoad s dest src n = .ok m := by
  induction n with
  | zero => exact ⟨s.sprite, rfl⟩
  | succ n ih =>
    obtain ⟨m, hm⟩ := ih (by omega)
    rcases spriteLoad_succ (s := s) dest src n with ⟨m', _, _, e⟩ | ⟨_, hpast⟩ | ⟨r, e, _⟩
    · exact ⟨_, e⟩
    · omega
    · rw [hm] at e; cases e

/-- The sprite library replaced by the answer of `SpriteLoad`, and `PC` advanced: nothing else is written. -/
theorem spriteLoaded_of_spriteLoad {s : State} {dest n : Nat} {src : Word} {m : Memory}
    (h : spriteLoad s dest src n = .ok m) : SpriteLoaded s (s.withSprite m).advance dest src n := by
  obtain ⟨_, hread, _⟩ := spriteLoad_ok h
  refine ⟨fun k hk => ?_, fun a ha => ?_, rfl, rfl, regsKept_advance (readReg_withSprite s m), fun _ => rfl,
    fun _ => rfl, ⟨rfl, rfl, rfl, rfl⟩, ⟨rfl, rfl⟩⟩
  · refine (hread (dest + k)).trans ?_
    rw [if_pos (by omega), Nat.add_sub_cancel_left, sourceByte]
  · exact (hread a).trans (if_neg ha)

/-- `GLOD` within the library copies the sprite (43_graphics R223). -/
theorem glod_spriteLoaded {s : State} {dest len : BitVec 12} (src : Word) (h : dest.toNat + len.toNat ≤ 4096) :
    ∃ t, glod s dest src len = .next t ∧ SpriteLoaded s t dest.toNat src len.toNat := by
  obtain ⟨m, hm⟩ := spriteLoad_ok_of_le (s := s) src (n := len.toNat) h
  exact ⟨_, by rw [glod, hm], spriteLoaded_of_spriteLoad hm⟩

/-- Settles O46: the operands are the low 12 bits of the destination's and the length's register. -/
theorem glodRegCopiesTheSprite : Obligations.GlodRegCopiesTheSprite := by
  intro s ra rb rc h
  have hdest : (lowBits 12 s ra).toNat = (readReg s ra).toNat % 4096 := toNat_lowBits 12 s ra
  have hlen : (lowBits 12 s rc).toNat = (readReg s rc).toNat % 4096 := toNat_lowBits 12 s rc
  rw [← hdest, ← hlen] at h ⊢
  exact glod_spriteLoaded (readReg s rb) h

end Sys2Proof.Machine
end

section
/-!
PROOFS. ALU operations 0..15: a sum, a difference, a product or a quotient written back with `STS.CC` left free, and the
operands on which a divide is refused (40_alu R131..R148, R167).
-/

namespace Sys2Proof.Machine

/-! A result written with `STS.CC` left free. -/

/-- `STS.IF` after a register is written: bit 5 of the value where the register is R29 (10_state R28, R30). -/
theorem writeReg_iflag (s : State) (ra : Reg) (v : Word) :
    (writeReg s ra v).iflag = if ra = .sts then v.getLsbD 5 else s.iflag := by
  split
  · next h =>
    subst h
    simp [writeReg, State.iflag, stsIF]
  · next h => exact (writeReg_status v h).2

/-- Writing a register, drawing a free code and advancing writes nothing but that register, `STS` and `PC`. -/
theorem onlyRegsWritten_drawCC (s : State) (ra : Reg) (v : Word) :
    OnlyRegsWritten [ra, .sts] s (writeReg s ra v).drawCC.advance := by
  obtain ⟨hregs, hmain, hsprite, hframe, hblitter, hcontrol⟩ := onlyRegsWritten_writeReg s ra v
  refine ⟨fun r hpc hr => ?_, hmain, hsprite, hframe, hblitter, hcontrol⟩
  obtain ⟨hra, hsts⟩ : r ≠ ra ∧ r ≠ .sts := by simpa using hr
  rw [readReg_advance _ hpc, readReg_drawCC _ hsts, readReg_writeReg_other _ _ hra]

/-- 40_alu R132: with a destination other than R28, an arithmetic instruction that has a result writes it and leaves
`STS.CC` a free value. -/
theorem arith_arithResult (s : State) {ra : Reg} (v : Word) (h : ra ≠ .pc) :
    ∃ t, arith s ra (.ok v) = .next t ∧ ArithResult s t ra v := by
  refine ⟨_, writeBack_eq s v State.drawCC h, fun hsts => ?_, ?_, ?_, ?_, ?_, onlyRegsWritten_drawCC s ra v⟩
  · rw [readReg_advance _ h, readReg_drawCC _ hsts, readReg_writeReg_same _ _ hsts]
  · rw [State.advance_iflag, State.drawCC_iflag, writeReg_iflag]
  · simp
  · simp
  · simp [writeReg_pc s v h]

/-- Settles O19: the four additions are a sum written back. -/
theorem additionsWriteTheSum : Obligations.AdditionsWriteTheSum := fun s _ _ _ _ hra =>
  ⟨arith_arithResult s _ hra, arith_arithResult s _ hra, arith_arithResult s _ hra, arith_arithResult s _ hra⟩

/-- Settles O20: the four subtractions are a difference written back. -/
theorem subtractionsWriteTheDifference : Obligations.SubtractionsWriteTheDifference := fun s _ _ _ _ hra =>
  ⟨arith_arithResult s _ hra, arith_arithResult s _ hra, arith_arithResult s _ hra, arith_arithResult s _ hra⟩

/-! Products. -/

/-- The product of two words is the low 32 bits of the exact unsigned product (40_alu R141). -/
theorem mul_eq_ofNat (a b : Word) : a * b = BitVec.ofNat 32 (a.toNat * b.toNat) := by
  rw [BitVec.ofNat_mul, BitVec.ofNat_toNat, BitVec.ofNat_toNat, BitVec.setWidth_eq, BitVec.setWidth_eq]

/-- The product of two words is the low 32 bits of the exact signed product (40_alu R142). -/
theorem mul_eq_ofInt (a b : Word) : a * b = BitVec.ofInt 32 (a.toInt * b.toInt) := by
  rw [BitVec.ofInt_mul, BitVec.ofInt_toInt, BitVec.ofInt_toInt]

/-- Settles O21: the low 32 bits of the unsigned and of the signed product are the same word. -/
theorem multiplicationsWriteTheLowProduct : Obligations.MultiplicationsWriteTheLowProduct := by
  intro s ra rb rc imm9 hra
  have himm : (sext32 imm9).toInt = imm9.toInt := toInt_sext32 (by decide) imm9
  rw [← himm, ← mul_eq_ofNat, ← mul_eq_ofNat, ← mul_eq_ofInt, ← mul_eq_ofInt]
  exact ⟨arith_arithResult s _ hra, arith_arithResult s _ hra, arith_arithResult s _ hra, arith_arithResult s _ hra⟩

/-! Quotients. -/

/-- Sign extension loses no immediate. -/
theorem sext32_inj {n : Nat} (hn : n ≤ 32) {v w : BitVec n} : sext32 v = sext32 w ↔ v = w := by
  rw [← BitVec.toInt_inj, toInt_sext32 hn, toInt_sext32 hn, BitVec.toInt_inj]

/-- `udiv` by a divisor other than zero rounds down (40_alu R167). -/
theorem udiv_ok (a : Word) {b : Word} (hb : b ≠ 0#32) : udiv a b = .ok (a / b) := by
  have hnat : b.toNat ≠ 0 := fun h => hb (BitVec.eq_of_toNat_eq h)
  rw [udiv, if_neg hnat, BitVec.udiv_def]

/-- `sdiv` by a divisor other than zero, but for `-2^31 / -1`, truncates toward zero (40_alu R167). -/
theorem sdiv_ok {a b : Word} (hb : b ≠ 0#32) (hover : ¬ (a = 0x80000000#32 ∧ b = 0xFFFFFFFF#32)) :
    sdiv a b = .ok (a.sdiv b) ∧ (a.sdiv b).toInt = a.toInt.tdiv b.toInt := by
  have hzero : b.toInt ≠ 0 := fun h => hb (BitVec.eq_of_toInt_eq h)
  have hmin : ¬ (a.toInt = -2 ^ 31 ∧ b.toInt = -1) := fun ⟨ha, hb'⟩ =>
    hover ⟨BitVec.eq_of_toInt_eq ha, BitVec.eq_of_toInt_eq hb'⟩
  have hquot : (a.sdiv b).toInt = a.toInt.tdiv b.toInt :=
    BitVec.toInt_sdiv_of_ne_or_ne a b (not_and_or.1 hover)
  refine ⟨?_, hquot⟩
  rw [sdiv, if_neg hzero, if_neg hmin, roundedQuotient, sDivRound, ← hquot, BitVec.ofInt_toInt]

/-- An unsigned divide by a divisor other than zero writes the quotient rounded down. -/
theorem arith_udiv (s : State) {ra : Reg} (a : Word) {b : Word} (hra : ra ≠ .pc) (hb : b ≠ 0#32) :
    ∃ t q, arith s ra (udiv a b) = .next t ∧ ArithResult s t ra q ∧ q.toNat = a.toNat / b.toNat := by
  obtain ⟨t, ht, hr⟩ := arith_arithResult s (a / b) hra
  exact ⟨t, a / b, udiv_ok a hb ▸ ht, hr, BitVec.toNat_udiv⟩

/-- A signed divide by a divisor other than zero, but for `-2^31 / -1`, writes the quotient truncated toward zero. -/
theorem arith_sdiv (s : State) {ra : Reg} {a b : Word} (hra : ra ≠ .pc) (hb : b ≠ 0#32)
    (hover : ¬ (a = 0x80000000#32 ∧ b = 0xFFFFFFFF#32)) :
    ∃ t q, arith s ra (sdiv a b) = .next t ∧ ArithResult s t ra q ∧ q.toInt = a.toInt.tdiv b.toInt := by
  obtain ⟨hok, hquot⟩ := sdiv_ok hb hover
  obtain ⟨t, ht, hr⟩ := arith_arithResult s (a.sdiv b) hra
  exact ⟨t, a.sdiv b, hok ▸ ht, hr, hquot⟩

/-- Only the zero immediate is extended to the zero word. -/
theorem sext32_ne_zero {imm9 : BitVec 9} (h : imm9 ≠ 0#9) : sext32 imm9 ≠ 0#32 :=
  fun e => h ((sext32_inj (by decide)).1 e)

/-- Settles O22: both forms are `udiv` written back. -/
theorem unsignedDivisionsRoundDown : Obligations.UnsignedDivisionsRoundDown := fun s _ _ _ _ hra =>
  ⟨arith_udiv s _ hra, fun himm => arith_udiv s _ hra (sext32_ne_zero himm)⟩

/-- Settles O23: both forms are `sdiv` written back, and only the immediate `-1` is extended to the word `-1`. -/
theorem signedDivisionsTruncate : Obligations.SignedDivisionsTruncate := by
  intro s ra rb rc imm9 hra
  refine ⟨arith_sdiv s hra, fun himm hover => ?_⟩
  have hext : ¬ (readReg s rb = 0x80000000#32 ∧ sext32 imm9 = 0xFFFFFFFF#32) := fun ⟨ha, hb⟩ =>
    hover ⟨ha, (sext32_inj (by decide)).1 hb⟩
  have himmInt : (sext32 imm9).toInt = imm9.toInt := toInt_sext32 (by decide) imm9
  rw [← himmInt]
  exact arith_sdiv s hra (sext32_ne_zero himm) hext

/-! Refused divides. -/

/-- A division by zero has no result (40_alu R167). -/
theorem udiv_sdiv_zero (a : Word) : udiv a 0#32 = .error .divisionByZero ∧ sdiv a 0#32 = .error .divisionByZero :=
  ⟨rfl, rfl⟩

/-- `-2^31 / -1` has no result (40_alu R167). -/
theorem sdiv_overflow : sdiv 0x80000000#32 0xFFFFFFFF#32 = .error .signedDivisionOverflow := rfl

/-- An arithmetic instruction whose result is refused is refused. -/
theorem arith_refused (s : State) (ra : Reg) {e : Except Refusal Word} {r : Refusal} (h : e = .error r) :
    arith s ra e = .refused r := by
  rw [arith, h, writeBackOr_error]

/-- Settles O24: a divide is refused where its quotient is, before the destination is looked at. -/
theorem divisionCornersRefused : Obligations.DivisionCornersRefused := by
  intro s ra rb rc
  obtain ⟨hu, hs⟩ := udiv_sdiv_zero (readReg s rb)
  refine ⟨fun hc => ⟨?_, ?_⟩, arith_refused s ra hu, arith_refused s ra hs, fun hb hc => ?_, fun hb => ?_⟩
  · exact arith_refused s ra (hc ▸ hu)
  · exact arith_refused s ra (hc ▸ hs)
  · exact arith_refused s ra (by rw [hb, hc, sdiv_overflow])
  · exact arith_refused s ra (by rw [hb]; exact sdiv_overflow)

end Sys2Proof.Machine
end

section
/-!
PROOFS. `CMP`, the shifts and the logic with an immediate (40_alu R149, R151..R159, R161, R163, R165).
-/

namespace Sys2Proof.Machine

/-! Compare. -/

/-- The code `CMP` stores, by the unsigned order (40_alu R149). -/
theorem code_compareCode (a b : Word) : (compareCode a b).code =
    if a = b then Cond.code .e else if a.toNat < b.toNat then Cond.code .lt else Cond.code .gt := by
  have hless : less a b = true ↔ a.toNat < b.toNat := by
    rw [less, cmpSigned, if_neg Bool.false_ne_true, BitVec.ult_iff_lt, BitVec.lt_def]
  rw [compareCode, apply_ite Cond.code, apply_ite Cond.code]
  simp only [hless]

/-- Settles O25: `CMP` is one update of `STS.CC`, `PC` advanced. -/
theorem cmpStoresTheRelation : Obligations.CmpStoresTheRelation := by
  intro s ra rb
  refine ⟨_, rfl, ?_, s.setCC_iflag _, rfl, rfl, fun r hpc hr => ?_, fun _ => rfl, fun _ => rfl, fun _ => rfl,
    ⟨rfl, rfl, rfl, rfl⟩, rfl, rfl⟩
  · rw [State.advance_cc, State.setCC_cc, code_compareCode]
  · rw [readReg_advance _ hpc, readReg_setCC _ _ (List.ne_of_not_mem_cons hr)]

/-! Shifts. -/

/-- What each shift makes of a word, bit by bit (40_alu R151). -/
def ShiftMoves : Config.ShiftKind → Word → Word → Nat → Prop
  | .asl, v, x, n => ShiftedLeft v x n
  | .asr, v, x, n => ShiftedRightSigned v x n
  | .lsl, v, x, n => ShiftedLeft v x n
  | .lsr, v, x, n => ShiftedRight v x n

theorem shiftedLeft_shiftLeft (x : Word) (n : Nat) : ShiftedLeft (x <<< n) x n := by
  intro j hj
  rw [BitVec.getLsbD_shiftLeft]
  split
  · next h => simp [hj, Nat.not_lt.2 h, -BitVec.getLsbD_eq_getElem]
  · next h => simp [Nat.lt_of_not_le h]

theorem shiftedRight_ushiftRight (x : Word) (n : Nat) : ShiftedRight (x >>> n) x n := by
  intro j _
  rw [BitVec.getLsbD_ushiftRight, Nat.add_comm n j]
  split
  · rfl
  · next h => exact BitVec.getLsbD_of_ge x _ (Nat.le_of_not_lt h)

theorem shiftedRightSigned_sshiftRight (x : Word) (n : Nat) : ShiftedRightSigned (x.sshiftRight n) x n := by
  intro j hj
  rw [BitVec.getLsbD_sshiftRight, Nat.add_comm n j, BitVec.msb_eq_getLsbD_last]
  simp [hj]

/-- Every shift moves the bits as its kind says. -/
theorem shiftMoves_shiftBy (kind : Config.ShiftKind) (x : Word) (n : Nat) : ShiftMoves kind (shiftBy kind x n) x n := by
  cases kind with
  | asl | lsl => exact shiftedLeft_shiftLeft x n
  | asr => exact shiftedRightSigned_sshiftRight x n
  | lsr => exact shiftedRight_ushiftRight x n

/-- With an amount below 32 and a destination other than R28, a shift writes the moved bits back (40_alu R151). -/
theorem shiftDest_moves (s : State) (kind : Config.ShiftKind) {ra : Reg} {amount : Word} (hra : ra ≠ .pc)
    (h : amount.toNat < 32) :
    ∃ t v, shiftDest s kind ra amount = .next t ∧ RegisterResult s t ra v ∧
      ShiftMoves kind v (readReg s ra) amount.toNat := by
  obtain ⟨t, ht, hr⟩ := writeBack_registerResult s (shiftBy kind (readReg s ra) amount.toNat) hra
  refine ⟨t, _, ?_, hr, shiftMoves_shiftBy kind _ _⟩
  rw [shiftDest, shift, if_pos h]
  exact ht

/-- With an amount of 32 or more a shift is refused, whatever the destination (40_alu R151). -/
theorem shiftDest_refused (s : State) (kind : Config.ShiftKind) (ra : Reg) {amount : Word} (h : 32 ≤ amount.toNat) :
    shiftDest s kind ra amount = .refused .shiftAmountOutOfRange := by
  rw [shiftDest, shift, if_neg (Nat.not_lt.2 h)]
  rfl

/-- An immediate amount below 2^13 is extended to itself, and any other to an amount of 2^13 or more. -/
theorem toNat_sext32_amount (imm14 : BitVec 14) :
    (sext32 imm14).toNat = imm14.toNat ∨ 2 ^ 13 ≤ imm14.toNat ∧ 2 ^ 13 ≤ (sext32 imm14).toNat := by
  have hlt := imm14.isLt
  rw [sext32, BitVec.toNat_signExtend, BitVec.toNat_setWidth, BitVec.msb_eq_decide, Nat.mod_eq_of_lt (by omega)]
  by_cases h : 2 ^ 13 ≤ imm14.toNat
  · exact .inr ⟨h, Nat.le_trans h (Nat.le_add_right ..)⟩
  · left
    simp only [Nat.add_one_sub_one, h, decide_false, Bool.false_eq_true, if_false, Nat.add_zero]

/-- The extension keeps an immediate amount below 32. -/
theorem toNat_sext32_of_lt {imm14 : BitVec 14} (h : imm14.toNat < 32) : (sext32 imm14).toNat = imm14.toNat := by
  rcases toNat_sext32_amount imm14 with e | ⟨hbig, _⟩
  · exact e
  · omega

/-- The extension keeps an immediate amount out of range. -/
theorem le_toNat_sext32 {imm14 : BitVec 14} (h : 32 ≤ imm14.toNat) : 32 ≤ (sext32 imm14).toNat := by
  rcases toNat_sext32_amount imm14 with e | ⟨_, hbig⟩ <;> omega

/-- The form of `shiftDest_moves` for an immediate amount. -/
theorem shiftDest_imm_moves (s : State) (kind : Config.ShiftKind) {ra : Reg} {imm14 : BitVec 14} (hra : ra ≠ .pc)
    (h : imm14.toNat < 32) :
    ∃ t v, shiftDest s kind ra (sext32 imm14) = .next t ∧ RegisterResult s t ra v ∧
      ShiftMoves kind v (readReg s ra) imm14.toNat := by
  have hext := toNat_sext32_of_lt h
  rw [← hext] at h ⊢
  exact shiftDest_moves s kind hra h

/-- Settles O27: the arithmetic and the logical left shift move the bits alike. -/
theorem leftShiftsMoveTheBits : Obligations.LeftShiftsMoveTheBits := fun s _ _ _ hra =>
  ⟨fun h => ⟨shiftDest_moves s .asl hra h, shiftDest_moves s .lsl hra h⟩,
    fun h => ⟨shiftDest_imm_moves s .asl hra h, shiftDest_imm_moves s .lsl hra h⟩⟩

/-- Settles O28: both forms are the logical right shift written back. -/
theorem logicalRightShiftsMoveTheBits : Obligations.LogicalRightShiftsMoveTheBits := fun s _ _ _ hra =>
  ⟨shiftDest_moves s .lsr hra, shiftDest_imm_moves s .lsr hra⟩

/-- Settles O29: both forms are the arithmetic right shift written back. -/
theorem arithmeticRightShiftsKeepTheSign : Obligations.ArithmeticRightShiftsKeepTheSign := fun s _ _ _ hra =>
  ⟨shiftDest_moves s .asr hra, shiftDest_imm_moves s .asr hra⟩

/-- Settles O30: all eight shifts share one check of the amount. -/
theorem shiftsOutOfRangeRefused : Obligations.ShiftsOutOfRangeRefused := by
  intro s ra rb imm14
  refine ⟨fun h => ?_, fun h => ?_⟩
  · exact ⟨shiftDest_refused s .asl ra h, shiftDest_refused s .asr ra h, shiftDest_refused s .lsl ra h,
      shiftDest_refused s .lsr ra h⟩
  · have h := le_toNat_sext32 h
    exact ⟨shiftDest_refused s .asl ra h, shiftDest_refused s .asr ra h, shiftDest_refused s .lsl ra h,
      shiftDest_refused s .lsr ra h⟩

/-! Logic with an immediate. -/

/-- Settles O32: the three instructions write one result; the immediate `-1` is all ones, and `x XOR -1` is `NOT x`. -/
theorem immediateLogicWritesTheResult : Obligations.ImmediateLogicWritesTheResult := by
  intro s ra rb imm9 hra
  refine ⟨writeBack_registerResult s _ hra, writeBack_registerResult s _ hra, ?_⟩
  obtain ⟨t, ht, hr⟩ := writeBack_registerResult s (readReg s rb ^^^ sext32 imm9) hra
  refine ⟨t, ht, hr, fun himm => ?_⟩
  have hones : sext32 imm9 = BitVec.allOnes 32 := by rw [himm]; rfl
  rwa [hones, BitVec.xor_allOnes] at hr

end Sys2Proof.Machine
end

section
/-!
PROOFS. The loads and stores that address relative to the next instruction, and the stack (41_memory_instructions R181,
R183, R185..R187).
-/

namespace Sys2Proof.Machine

/-! Relative to the next instruction. -/

/-- The offset -1 addresses the instruction itself (41_memory_instructions R181). -/
theorem eaImm_neg_one (s : State) : eaImm s 0x1FFFF#17 = s.pc := by
  have hext : sext32 0x1FFFF#17 = -1 := rfl
  rw [eaImm, hext, add_neg_cancel_right]

/-- Settles O35: `LDR.i` writes one result, the word at its effective address. -/
theorem ldrImmLoadsRelativeToTheNextWord : Obligations.LdrImmLoadsRelativeToTheNextWord := by
  intro s ra imm17 hra
  obtain ⟨t, ht, hr⟩ := writeBack_registerResult s (s.memRead (eaImm s imm17)) hra
  refine ⟨t, ht, hr, ?_⟩
  rintro rfl
  rwa [eaImm_neg_one] at hr

/-- Settles O37: `STR.i` is one store at its effective address. -/
theorem strImmStoresRelativeToTheNextWord : Obligations.StrImmStoresRelativeToTheNextWord := fun s _ _ =>
  ⟨_, rfl, s.memRead_memWrite_same _ _, rfl, onlyWordWritten_memWrite s _ _, rfl⟩

/-! The stack. -/

/-- A store after a new `SP`, and the advance of `PC`, write `SP`, the one word and nothing else. -/
theorem onlyWordWritten_withSp_memWrite (s : State) (sp addr v : Word) :
    OnlyWordWritten [.sp] addr s ((s.withSp sp).memWrite addr v).advance := by
  obtain ⟨hregs, hmain, hsprite, hframe, hblitter, hcontrol, hdraws⟩ := onlyWordWritten_memWrite (s.withSp sp) addr v
  refine ⟨fun r hpc hr => ?_, hmain, hsprite, hframe, hblitter, hcontrol, hdraws⟩
  rw [hregs r hpc List.not_mem_nil, readReg_withSp _ _ (List.ne_of_not_mem_cons hr)]

/-- The source of `PUSH`, read after `SP` is decremented (decision D13). -/
theorem readReg_withSp_eq (s : State) (sp : Word) (r : Reg) :
    readReg (s.withSp sp) r = if r = .sp then sp else readReg s r := by
  split
  · next h => subst h; rfl
  · next h => exact readReg_withSp s sp h

/-- Settles O38: `PUSH` is one store at the decremented `SP`, of a source that only `PUSH SP` sees changed. -/
theorem pushStoresBelowTheStack : Obligations.PushStoresBelowTheStack := by
  intro s ra
  refine ⟨_, rfl, rfl, ?_, onlyWordWritten_withSp_memWrite s _ _ _, rfl⟩
  rw [← readReg_withSp_eq]
  exact State.memRead_memWrite_same _ _ _

/-- Only a write to R30 changes `SP`. -/
theorem writeReg_sp (s : State) {r : Reg} (v : Word) (h : r ≠ .sp) : (writeReg s r v).sp = s.sp :=
  readReg_writeReg_other s (r' := .sp) v h.symm

/-- Writing a register, setting `SP` and advancing writes nothing but that register, `SP` and `PC`. -/
theorem onlyRegsWritten_withSp (s : State) (ra : Reg) (v sp : Word) :
    OnlyRegsWritten [ra, .sp] s ((writeReg s ra v).withSp sp).advance := by
  obtain ⟨hregs, hmain, hsprite, hframe, hblitter, hcontrol⟩ := onlyRegsWritten_writeReg s ra v
  refine ⟨fun r hpc hr => ?_, hmain, hsprite, hframe, hblitter, hcontrol⟩
  obtain ⟨hra, hsp⟩ : r ≠ ra ∧ r ≠ .sp := by simpa using hr
  rw [readReg_advance _ hpc, readReg_withSp _ _ hsp, readReg_writeReg_other _ _ hra]

/-- With a destination other than R28, `POP` increments the `SP` that its write leaves (41_memory_instructions R187). -/
theorem exec_pop (s : State) {ra : Reg} (h : ra ≠ .pc) :
    exec (.pop ra) s = .next
      ((writeReg s ra (s.memRead s.sp)).withSp ((writeReg s ra (s.memRead s.sp)).sp + 1)).advance :=
  writeBack_eq s (s.memRead s.sp) (fun t => t.withSp (t.sp + 1)) h

/-- Settles O39: `POP` writes the loaded word back and then increments the `SP` that write leaves, which is the loaded
word where the destination is R30 and the old `SP` where it is not. -/
theorem popLoadsFromTheStack : Obligations.PopLoadsFromTheStack := by
  intro s ra hra
  refine ⟨_, exec_pop s hra, ?_, ?_, ?_, onlyRegsWritten_withSp s ra _ _⟩
  · split
    · rfl
    · exact ⟨rfl, rfl⟩
    · next hsp hsts =>
      refine ⟨?_, congrArg (· + 1) (writeReg_sp s _ hsp)⟩
      rw [readReg_advance _ hra, readReg_withSp _ _ hsp, readReg_writeReg_same _ _ hsts]
  · rw [State.advance_pc, State.withSp_pc, writeReg_pc s _ hra]
  · rw [State.advance_freeDraws, State.withSp_freeDraws, writeReg_freeDraws]

end Sys2Proof.Machine
end

section
/-!
PROOFS. The jumps whose condition has an answer, the return from an interrupt, and a key event followed by it
(42_control R200..R208, 60_exceptions R255, R258).
-/

namespace Sys2Proof.Machine

/-! What the end of a jump leaves alone. -/

theorem onlyRegsWritten_withPc (written : List Reg) (s : State) (v : Word) : OnlyRegsWritten written s (s.withPc v) :=
  ⟨fun _ hpc _ => readReg_withPc s v hpc, fun _ => rfl, fun _ => rfl, fun _ => rfl, ⟨rfl, rfl, rfl, rfl⟩, rfl, rfl⟩

theorem onlyRegsWritten_linkReturn (s : State) (v : Word) : OnlyRegsWritten [.lr] s ((linkReturn s).withPc v) := by
  refine ⟨fun r hpc hr => ?_, fun _ => rfl, fun _ => rfl, fun _ => rfl, ⟨rfl, rfl, rfl, rfl⟩, rfl, rfl⟩
  rw [readReg_withPc _ _ hpc, linkReturn, readReg_withLr _ _ (List.ne_of_not_mem_cons hr)]

theorem onlyRegsWritten_returnFromInterrupt (s : State) : OnlyRegsWritten [.sts] s (returnFromInterrupt s) :=
  ⟨fun _ hpc hr => readReg_returnFromInterrupt s hpc (List.ne_of_not_mem_cons hr), fun _ => rfl, fun _ => rfl,
    fun _ => rfl, ⟨rfl, rfl, rfl, rfl⟩, rfl, rfl⟩

/-! Jumps whose condition has an answer (42_control R200). -/

section

variable {c : Cond} {s : State}

theorem jump_taken (taken : State → State) (h : condMatch c s.cc = some true) : jump c s taken = .next (taken s) := by
  simp only [jump, h]

theorem jump_not_taken (taken : State → State) (h : condMatch c s.cc = some false) :
    jump c s taken = .next s.advance := by
  simp only [jump, h]

/-- A jump that only goes to a target (42_control R202, R203). -/
theorem jump_withPc {b : Bool} (target : State → Word) (h : condMatch c s.cc = some b) :
    ∃ t, jump c s (fun s => s.withPc (target s)) = .next t ∧ t.pc = (if b then target s else s.pc + 1) ∧
      OnlyPcWritten s t := by
  cases b with
  | true => exact ⟨_, jump_taken _ h, rfl, rfl, onlyRegsWritten_withPc [] s _⟩
  | false => exact ⟨_, jump_not_taken _ h, rfl, rfl, onlyRegsWritten_withPc [] s _⟩

/-- A jump that links before it goes to a target (42_control R204, R205, R208). -/
theorem jump_linkReturn {b : Bool} (target : State → Word) (h : condMatch c s.cc = some b) :
    ∃ t, jump c s (fun s => (linkReturn s).withPc (target s)) = .next t ∧
      t.pc = (if b then target s else s.pc + 1) ∧
      t.lr = (if b then s.pc + 1 else s.lr) ∧ t.freeDraws = s.freeDraws ∧ OnlyRegsWritten [.lr] s t := by
  cases b with
  | true => exact ⟨_, jump_taken _ h, rfl, rfl, rfl, onlyRegsWritten_linkReturn s _⟩
  | false => exact ⟨_, jump_not_taken _ h, rfl, rfl, rfl, onlyRegsWritten_withPc [.lr] s _⟩

/-- `JMPI` taken returns where the interrupt flag is set, and only advances where it is clear (42_control R206). -/
theorem exec_jmpi_taken (h : condMatch c s.cc = some true) :
    exec (.jmpi c) s = .next (if s.iflag then returnFromInterrupt s else s.advance) := by
  rw [exec, execJmpi, jump_taken _ h]

theorem exec_jmpi_not_taken (h : condMatch c s.cc = some false) : exec (.jmpi c) s = .next s.advance := by
  rw [exec, execJmpi, jump_not_taken _ h]

end

/-- Settles O42: both forms only go to a target. -/
theorem jumpsGoWhereTheConditionSays : Obligations.JumpsGoWhereTheConditionSays := fun _ _ ra imm22 _ h =>
  ⟨jump_withPc (readReg · ra) h, jump_withPc (jumpTarget · imm22) h⟩

/-- The target of `JMPS.r`, read after `LR` is written (decision D13). -/
theorem readReg_linkReturn (s : State) (r : Reg) :
    readReg (linkReturn s) r = if r ≠ .lr then readReg s r else s.pc + 1 := by
  split
  · next h => exact readReg_withLr s _ h
  · next h =>
    rw [not_not.1 h]
    rfl

/-- Settles O43: both forms link before they go to a target, which only `JMPS LR` sees changed. -/
theorem subroutineJumpsLink : Obligations.SubroutineJumpsLink := by
  intro s c ra imm22 b h
  refine ⟨?_, jump_linkReturn (jumpTarget · imm22) h⟩
  rw [ite_and, ← readReg_linkReturn]
  exact jump_linkReturn (fun s => readReg (linkReturn s) ra) h

/-- Settles O44: taken or not, and where taken with the interrupt flag set or clear. -/
theorem jmpiReturnsFromTheInterrupt : Obligations.JmpiReturnsFromTheInterrupt := by
  intro s c b h
  have advanced : OnlyRegsWritten [.sts] s s.advance := onlyRegsWritten_withPc [.sts] s _
  cases b with
  | false => exact ⟨_, exec_jmpi_not_taken h, rfl, rfl, rfl, rfl, advanced⟩
  | true =>
    refine ⟨_, exec_jmpi_taken h, ?_⟩
    cases hflag : s.iflag with
    | true =>
      exact ⟨rfl, returnFromInterrupt_iflag s, returnFromInterrupt_cc s, rfl, onlyRegsWritten_returnFromInterrupt s⟩
    | false => exact ⟨rfl, hflag, rfl, rfl, advanced⟩

/-! A key event and the return from it. -/

/-- Interrupt entry writes `INTLR`, `STS`, `PC` and the code word alone (60_exceptions R255). -/
theorem onlyWordWritten_enterInterrupt (k : Key) (s : State) :
    OnlyWordWritten [.intlr, .sts] codeAddress s (enterInterrupt k s) := by
  refine ⟨fun r hpc hr => ?_, fun a ha => ?_, fun _ => rfl, fun _ => rfl, ⟨rfl, rfl, rfl, rfl⟩, ⟨rfl, rfl⟩, rfl⟩
  · obtain ⟨hintlr, hsts⟩ : r ≠ .intlr ∧ r ≠ .sts := by simpa using hr
    rw [enterInterrupt_eq, readReg_withPc _ _ hpc]
    exact (readReg_writeReg_other _ (r := .intlr) _ hintlr).trans (readReg_setIF s true hsts)
  · exact ((s.setIF true).mainByte_memWrite codeAddress _ a).trans (if_neg ha)

/-- An interrupt entry and the return from it write `INTLR` and the code word alone where the flag was clear. -/
theorem onlyWordWritten_returnFromInterrupt_enterInterrupt (k : Key) {s : State} (hflag : s.iflag = false) :
    OnlyWordWritten [.intlr] codeAddress s (returnFromInterrupt (enterInterrupt k s)) := by
  obtain ⟨hregs, hmain, hsprite, hframe, hblitter, hcontrol, hdraws⟩ := onlyWordWritten_enterInterrupt k s
  refine ⟨fun r hpc hr => ?_, hmain, hsprite, hframe, hblitter, hcontrol, hdraws⟩
  by_cases hsts : r = .sts
  · subst hsts
    exact readReg_sts_eq.2 ⟨by simp [hflag], by simp⟩
  · rw [readReg_returnFromInterrupt _ hpc hsts]
    exact hregs r hpc (by simpa [hsts] using hr)

/-- The status is read whole through R29 (10_state R30). -/
theorem readReg_sts_inj {s t : State} (h : readReg t .sts = readReg s .sts) : t.sts = s.sts := by
  simpa [readReg] using congrArg (BitVec.setWidth 6) h

/-- Settles O56: `JMPI` with the null condition is taken and finds the flag set that the entry set. -/
theorem interruptThenReturnResumes : Obligations.InterruptThenReturnResumes := by
  intro s k htakes
  obtain ⟨_, hflag, _⟩ := (takesKey_iff s).1 htakes
  have hframe := onlyWordWritten_returnFromInterrupt_enterInterrupt k hflag
  have hregs : RegsKept [.intlr] s (returnFromInterrupt (enterInterrupt k s)) := hframe.1
  have hsts : (returnFromInterrupt (enterInterrupt k s)).sts = s.sts := readReg_sts_inj (hregs .sts nofun (by decide))
  refine ⟨returnFromInterrupt (enterInterrupt k s), ?_, rfl, hsts, rfl, hframe⟩
  rw [keyEvent_taken k htakes, exec_jmpi_taken (condMatch_ns _), if_pos (enterInterrupt_iflag s k)]

end Sys2Proof.Machine
end

section
/-!
PROOFS. The sprite that immediates name, and bit block transfers within both graphics memories: their sixteen operations
and the rectangle they write (43_graphics R222, R225, R229..R231).
-/

namespace Sys2Proof.Machine

/-- Settles O47: the immediate form is `glod` on the address `pc + sext_32(src10)`. -/
theorem glodImmCopiesTheSprite : Obligations.GlodImmCopiesTheSprite :=
  fun s _ src10 _ h => glod_spriteLoaded (glodSource s src10) h

/-! The operations. -/

/-- The bit of the operation code that a source bit and a destination bit select: the code is the operation's truth
table (43_graphics R222). -/
theorem getLsbD_blitOp (bop : BitVec 4) (src dest : Byte) {j : Nat} (hj : j < 8) :
    (blitOp bop src dest).getLsbD j =
      if src.getLsbD j then (if dest.getLsbD j then bop.getLsbD 0 else bop.getLsbD 1)
      else (if dest.getLsbD j then bop.getLsbD 2 else bop.getLsbD 3) := by
  obtain ⟨code, hcode, rfl⟩ : ∃ code < 16, bop = BitVec.ofNat 4 code := ⟨bop.toNat, bop.isLt, by simp⟩
  have hones : (0xFF#8).getLsbD j = true := by interval_cases j <;> rfl
  -- Each row is one Boolean function of the two bits, checked on their four values.
  interval_cases code
  all_goals
    simp only [blitOp, BitVec.toNat_ofNat, Nat.reducePow, Nat.reduceMod, BitVec.getLsbD_and, BitVec.getLsbD_or,
      BitVec.getLsbD_xor, BitVec.getLsbD_not, BitVec.getLsbD_zero, hones, hj, decide_true, Bool.true_and]
    generalize src.getLsbD j = x, dest.getLsbD j = y
    revert x y
    decide

/-- Settles O51: the rows are the equations of `blitOp`, and each of them is its code's truth table. -/
theorem blitOperationTable : Obligations.BlitOperationTable := fun src dest =>
  ⟨rfl, rfl, rfl, rfl, rfl, rfl, rfl, rfl, rfl, rfl, rfl, rfl, rfl, rfl, rfl, rfl,
    fun bop _ hj => getLsbD_blitOp bop src dest hj⟩

/-! The rectangle. -/

/-- Pixel `(row, col)` of a transfer lies within both graphics memories (43_graphics R231). -/
def PixelInRange (s : State) (row col : Nat) : Prop :=
  blitSource s row col < spriteSize ∧ blitDest s row col < frameSize

/-- Every pixel of a rectangle in range is: none lies past the last one. -/
theorem pixelInRange_of_blitInRange {s : State} (h : BlitInRange s) {row col : Nat} (hrow : row < s.blH.toNat)
    (hcol : col < s.blW.toNat) : PixelInRange s row col := by
  rcases h with hw | hh | ⟨hsource, hdest⟩
  · rw [hw] at hcol; exact absurd hcol (Nat.not_lt_zero col)
  · rw [hh] at hrow; exact absurd hrow (Nat.not_lt_zero row)
  · have harea : row * s.blW.toNat + s.blW.toNat ≤ s.blW.toNat * s.blH.toNat := by
      rw [← Nat.succ_mul, Nat.mul_comm]
      exact Nat.mul_le_mul_left _ hrow
    constructor
    · unfold blitSource spriteSize; omega
    · unfold blitDest frameSize; omega

/-- A row is answered where its pixels are in range: it refuses no earlier than a pixel out of range. -/
theorem blitRow_ok_of_inRange {s : State} (bop : BitVec 4) (mask : Byte) {row n : Nat} (m : Memory)
    (h : ∀ col, col < n → PixelInRange s row col) : ∃ m', blitRow s bop mask row n m = .ok m' := by
  induction n with
  | zero => exact ⟨m, rfl⟩
  | succ n ih =>
    obtain ⟨m₁, hm₁⟩ := ih fun col hc => h col (Nat.lt_succ_of_lt hc)
    rw [blitRow, hm₁]
    rcases blitPixel_cases (s := s) bop mask row n m₁ with ⟨_, _, e⟩ | ⟨hout, _⟩
    · exact ⟨_, e⟩
    · exact absurd (h n (Nat.lt_succ_self n)) hout

/-- The same for the first `n` rows. -/
theorem blitRows_ok_of_inRange {s : State} (bop : BitVec 4) (mask : Byte) {n : Nat} (m : Memory)
    (h : ∀ row col, row < n → col < s.blW.toNat → PixelInRange s row col) :
    ∃ m', blitRows s bop mask n m = .ok m' := by
  induction n with
  | zero => exact ⟨m, rfl⟩
  | succ n ih =>
    obtain ⟨m₁, hm₁⟩ := ih fun row col hr => h row col (Nat.lt_succ_of_lt hr)
    rw [blitRows, hm₁]
    exact blitRow_ok_of_inRange bop mask m₁ fun col => h n col (Nat.lt_succ_self n)

/-- The frame buffer replaced by the answer of the whole transfer, and `PC` advanced: nothing else is written. -/
theorem blitted_of_blitRows {s : State} {bop : BitVec 4} {mask : Byte} {m : Memory}
    (h : blitRows s bop mask s.blH.toNat s.frame = .ok m) : Blitted s (s.withFrame m).advance bop mask := by
  obtain ⟨_, hinside, houtside, _⟩ := blitRows_ok h
  exact ⟨hinside, fun a ha => houtside a fun row col hr hc e => ha ⟨row, col, hr, hc, e⟩, rfl, rfl,
    regsKept_advance (readReg_withFrame s m), fun _ => rfl, fun _ => rfl, ⟨rfl, rfl, rfl, rfl⟩, ⟨rfl, rfl⟩⟩

/-- A rectangle within both memories is written (43_graphics R231). -/
theorem blit_blitted {s : State} (bop : BitVec 4) (mask : Byte) (h : BlitInRange s) :
    ∃ t, blit s bop mask = .next t ∧ Blitted s t bop mask := by
  obtain ⟨m, hm⟩ := blitRows_ok_of_inRange bop mask s.frame fun _ _ hr hc => pixelInRange_of_blitInRange h hr hc
  exact ⟨_, by rw [blit, hm], blitted_of_blitRows hm⟩

/-- Settles O52: both forms are `blit`, the register form on the low bits of its operands. -/
theorem blitWritesTheRectangle : Obligations.BlitWritesTheRectangle :=
  fun s ra rb bop4 mask8 h => ⟨blit_blitted (lowBits 4 s ra) (lowBits 8 s rb) h, blit_blitted bop4 mask8 h⟩

end Sys2Proof.Machine
end

section
/-!
PROOFS. What a key event does between two instructions: taken or dropped, and what its entry writes (60_exceptions R252,
R254, R255).
-/

namespace Sys2Proof.Machine

/-- A key event is blocked by a halted machine, by `STS.IF`, or by an `IHDLR` without a handler (60_exceptions R254). -/
theorem takesKey_eq_false_iff (s : State) :
    s.takesKey = false ↔ s.halted = true ∨ s.iflag = true ∨ s.ihdlr = noHandler := by
  rw [← Bool.not_eq_true, takesKey_iff, not_and_or, not_and_or, not_not, Bool.not_eq_false, Bool.not_eq_false]

/-- Settles O54: the two cases are `takesKey` and its negation. -/
theorem keyEventTakenOrDropped : Obligations.KeyEventTakenOrDropped := fun s k =>
  ⟨fun htaken => keyEvent_taken k ((takesKey_iff s).2 htaken),
    fun hblocked => keyEvent_dropped k ((takesKey_eq_false_iff s).2 hblocked)⟩

/-- The code of the key is read where the entry stored it: what it writes afterwards leaves memory alone. -/
@[simp] theorem memRead_enterInterrupt_codeAddress (k : Key) (s : State) :
    (enterInterrupt k s).memRead codeAddress = k.code.setWidth 32 :=
  (s.setIF true).memRead_memWrite_same codeAddress _

/-- Settles O55: the fields that the entry writes, its frame, and the table of the codes. -/
theorem interruptEntrySavesAndJumps : Obligations.InterruptEntrySavesAndJumps := by
  refine ⟨fun s k => ?_, rfl, rfl, rfl, rfl, rfl, rfl, rfl⟩
  exact ⟨enterInterrupt_iflag s k, enterInterrupt_cc s k, memRead_enterInterrupt_codeAddress k s,
    enterInterrupt_intlr s k, enterInterrupt_pc s k, onlyWordWritten_enterInterrupt k s⟩

end Sys2Proof.Machine
end
